-- ==== Sys2Proof/Word.lean ====
section
/-! DEFINITION. The word types of the machine (00_scope.md R9, R13, R14): a word is 32 bits,
a quadword 128 bits, memory is made of bytes. -/

namespace Sys2Proof

/-- A word, and the type of every address register: `u32` (R14). -/
abbrev Word := BitVec 32

/-- The unit of memory. -/
abbrev Byte := BitVec 8

/-- A quadword, the 16-byte transfer granularity (R9 `QW_BYTES`). -/
abbrev Quad := BitVec 128

end Sys2Proof
end

