-- ==== Sys2Proof/Config.lean ====
section
/-! DEFINITION. What an implementation of the channel fixes, and the free values.
The numeric parameters of 00_scope.md R9; the OPEN parameters as plain data (`Platform`), whose values
at reset are opaque constants; and the replies a collaborator may give (45_interfaces.md), each a draw.
Every opaque constant here is a value the spec leaves open: nothing can be proved of it. -/

namespace Sys2Proof

/-! ### Enumerations of the status block and the runtime state -/

/-- `T.decodePhase` (10_state.md R61). -/
inductive DecodePhase
  | idle | waiting | decoding
deriving DecidableEq, Repr, Inhabited

/-- The reason of the runtime stall (10_state.md R46). -/
inductive StallReason
  | timingBreak | irqStall
deriving DecidableEq, Repr, Inhabited

/-- `V.stall` (10_state.md R46): one field, two mutually exclusive reasons. -/
structure Stall where
  enabled : Bool
  reason : StallReason
deriving DecidableEq, Repr, Inhabited

/-! ### Writes to the status blocks, and the collaborators' replies -/

/-- New values for fields of `T` other than the queue depth; `none` leaves a field as it is
(45_interfaces.md R186, 40_host_kickoff.md R125). -/
structure StatusFx where
  stopped : Option Bool := none
  irqStalled : Option Bool := none
  otherStall : Option Bool := none
  errorSub : Option Bool := none
  decodePhase : Option DecodePhase := none
  waitPeerPath : Option Bool := none
  waitPeer : Option Bool := none
  interruptFlag : Option Bool := none
deriving DecidableEq, Repr, Inhabited

/-- New values for fields of `P`; `none` leaves a field as it is (45_interfaces.md R186,
40_host_kickoff.md R125). -/
structure CoprocFx where
  busy : Option Bool := none
  stopped : Option Bool := none
  nextBlockCost : Option Nat := none
  elapsedCycles : Option Nat := none
deriving DecidableEq, Repr, Inhabited

/-- The effects `fx` of a collaborator's reply, in a form that cannot break the laws of
45_interfaces.md R186: interrupt requests are only added, the co-processor wait is only set. -/
structure Effects where
  cmd : Option Nat := none
  tagSize : Option Nat := none
  addIrqs : Nat := 0
  stall : Option Stall := none
  setWaiting : Bool := false
  queuedProgramPending : Option Bool := none
  status : StatusFx := {}
  coproc : CoprocFx := {}
deriving DecidableEq, Repr, Inhabited

/-- A reply of `unpack` (45_interfaces.md R185). `taken` is read only when not `consumed`, and capped at
the number of words offered. -/
structure UnpackReply where
  consumed : Bool
  taken : Nat := 0
  fx : Effects := {}
deriving DecidableEq, Repr, Inhabited

/-- A reply of `executeBlock` (45_interfaces.md R193): the block may clear busy, may set stopped, takes
`cost` cycles, at least one where busy stays (D44), and declares the next block's cost; the law forbids writes of `R`, `V`, the queue depth and
`H`, so it may write the other status flags (log 16). -/
structure BlockReply where
  clearBusy : Bool
  setStopped : Bool := false
  cost : Nat
  nextBlockCost : Nat
  status : StatusFx := {}
deriving DecidableEq, Repr, Inhabited

/-- A reply of `finishPass` (45_interfaces.md R194): the pass's cost; the other fields of `P` are a draw
(log 16). -/
structure PassReply where
  cost : Nat
  stopped : Option Bool := none
  nextBlockCost : Option Nat := none
deriving DecidableEq, Repr, Inhabited

/-- A reply of `executeQueuedProgram` (45_interfaces.md R195): whether the program starts, and effects. -/
structure QueuedReply where
  startsProgram : Bool
  fx : Effects := {}
deriving DecidableEq, Repr, Inhabited

/-! ### Numeric parameters (00_scope.md R9; the literals are unaudited, R3) -/

/-- `FIFO_CAP`. -/
abbrev Config.fifoCap : Nat := 8
/-- `TAG_FETCH_LATENCY`, cycles. -/
abbrev Config.tagFetchLatency : Nat := 4
/-- `TAG_FETCH_COST`, cycles. -/
abbrev Config.tagFetchCost : Nat := 1
/-- `SYNC_RECHECK_DELAY`, cycles. -/
abbrev Config.syncRecheckDelay : Nat := 128
/-- `FRESH_TAG_SKIP`, words. -/
abbrev Config.freshTagSkip : Nat := 2
/-- `TAG_BYTES`, also `QW_BYTES`. -/
abbrev Config.tagBytes : Nat := 16

/-! ### Open parameters: an implementation decides, nothing is known of them -/

/-- `MAPPED` (R9, 20_memory.md R79). -/
opaque Config.mapped : Word → Bool
/-- `EXEMPT_CLASS` (R9, D26). -/
opaque Config.exemptClass : Nat → Bool
/-- `XFER_COST` (R9, D31). -/
opaque Config.xferCost : Nat → Nat
/-- `PACING` (R9, D46). -/
opaque Config.pacing : Bool
/-- `FINISH_BIAS` (R9, D30); used as at least 1. -/
opaque Config.finishBias : Nat
/-- `SYNC_DEFER_DELAY` (R9, D24), cycles. -/
opaque Config.syncDeferDelay : Nat
/-- `CHANNEL_ID` (R9, D45). -/
opaque Config.channelId : Nat
/-- `REG_BASE` (R9, D7). -/
opaque Config.regBase : Word

/-! ### Free values: draws, indexed by a counter that each draw advances -/

/-- `FETCH_STALLS`: whether the n-th drawn tag fetch stalls for a reason of its own (45_interfaces.md R184). -/
opaque Config.freeFetchStall : Nat → Bool
/-- A drawn reply of `unpack` (93_implementation_defined.md U6). -/
opaque Config.freeUnpack : Nat → UnpackReply
/-- A drawn reply of `executeBlock` (U7). -/
opaque Config.freeBlock : Nat → BlockReply
/-- A drawn reply of `finishPass` (U7). -/
opaque Config.freePass : Nat → PassReply
/-- A drawn reply of `executeQueuedProgram` (U7). -/
opaque Config.freeQueued : Nat → QueuedReply
/-- The byte an access reads at an unmapped address past its first (20_memory.md R79, U3). -/
opaque Config.freeByte : Nat → Word → Byte
/-- What a byte of memory that nothing has written holds: the spec gives no contents (log 6). -/
opaque Config.powerOnByte : Word → Byte
/-- What the RESET operation leaves in the registers without a reset value: by draw and by register
(10_state.md R73, U2). -/
opaque Config.freeRegister : Nat → Nat → Word
/-- How many cycles after it is due the scheduler delivers an event on its own (45_interfaces.md R189). -/
opaque Config.freeLateness : Nat → Nat
/-- Which of two events due at one cycle the scheduler delivers first on its own; true is the driver's: 60_exceptions.md
R208 orders them by cycle and gives neither a priority. -/
opaque Config.freeOrder : Nat → Bool
/-- How many blocks more, past the listed ones and the gap, the catch-up loop may run before it counts as never ending
(93_implementation_defined.md U8, log 15). -/
opaque Config.catchUpBound : Nat

/-! ### The platform: the open parameters as plain data -/

/-- An address range and whether `translate` accepts its addresses. -/
structure MapRange where
  base : Word
  size : Nat
  mapped : Bool
deriving DecidableEq, Repr, Inhabited

/-- The OPEN parameters as the machine holds them. No step changes them. A range or a table entry says what the
parameter answers there; elsewhere the answer is the opaque constant (log 3). -/
structure Platform where
  /-- `MAPPED`; the first range that holds an address decides. -/
  ranges : List MapRange
  /-- `EXEMPT_CLASS`, by command. -/
  exempt : List (Nat × Bool)
  /-- `XFER_COST`, by word count. -/
  costs : List (Nat × Nat)
  /-- `PACING`. -/
  pacing : Bool
  /-- `FINISH_BIAS`. -/
  finishBias : Nat
  /-- `SYNC_DEFER_DELAY`. -/
  syncDeferDelay : Nat
  /-- `CHANNEL_ID`. -/
  channelId : Nat
  /-- `REG_BASE`. -/
  regBase : Word
deriving DecidableEq, Repr, Inhabited

/-- The platform of which nothing is known. -/
def Config.platform : Platform where
  ranges := []
  exempt := []
  costs := []
  pacing := Config.pacing
  finishBias := Config.finishBias
  syncDeferDelay := Config.syncDeferDelay
  channelId := Config.channelId
  regBase := Config.regBase

end Sys2Proof
end

