-- ==== Sys2Proof/Syntax.lean ====
section
/-! DEFINITION. The operations of the block: one constructor of `Instr` per row of
spec/opcode_table.json (30_encoding.md R96), with the operands the spec gives each. -/

namespace Sys2Proof

/-- The eight tag kinds (30_encoding.md R98). -/
inductive TagKind
  | refe | cnt | next | ref | refs | call | ret | endTag
deriving DecidableEq, Repr, Inhabited

/-- The fields of a tag other than its kind (30_encoding.md R97). -/
structure TagFields where
  /-- `QWC`, bits 15:0. -/
  qwc : BitVec 16
  /-- bits 25:16, ignored but copied into `lastTag`. -/
  unused : BitVec 10 := 0
  /-- `PCE`, bits 27:26, ignored but copied into `lastTag`. -/
  pce : BitVec 2 := 0
  /-- `IRQ`, bit 31. -/
  irq : Bool := false
  /-- `ADDR`, bits 63:32. -/
  addr : Word := 0
  /-- `DATA`, bits 127:64. -/
  data : BitVec 64 := 0
deriving DecidableEq, Repr, Inhabited

/-- The six channel registers (10_state.md R23). -/
inductive Reg
  | chcr | madr | qwc | tadr | asr0 | asr1
deriving DecidableEq, Repr, Inhabited

/-- The two scheduler events (30_encoding.md R105). -/
inductive EventId
  | driver | sync
deriving DecidableEq, Repr, Inhabited

/-- The label on a pulse of the interrupt line (45_interfaces.md R191). -/
inductive IrqCause
  | irqStall | completion
deriving DecidableEq, Repr, Inhabited

/-- The two messages of the log port (60_exceptions.md R216). -/
inductive LogMessage
  | runBitClear | waitingOnPeerPath
deriving DecidableEq, Repr, Inhabited

/-- An owner's write to the status blocks (40_host_kickoff.md R125): any field of `T` and `P`, and
`G.dmaEnable`. -/
structure StatusWrite where
  status : StatusFx := {}
  queueDepth : Option Nat := none
  coproc : CoprocFx := {}
  dmaEnable : Option Bool := none
deriving DecidableEq, Repr, Inhabited

/-- The operations, in the order of spec/opcode_table.json. -/
inductive Instr
  -- format TAG: a fetched chain tag
  | refe (t : TagFields)
  | cnt (t : TagFields)
  | next (t : TagFields)
  | ref (t : TagFields)
  | refs (t : TagFields)
  | call (t : TagFields)
  | ret (t : TagFields)
  | endTag (t : TagFields)
  -- format REG: a host access
  | rdChcr
  | wrChcr (value : Word)
  | rdMadr
  | wrMadr (value : Word)
  | rdQwc
  | wrQwc (value : Word)
  | rdTadr
  | wrTadr (value : Word)
  | rdAsr0
  | wrAsr0 (value : Word)
  | rdAsr1
  | wrAsr1 (value : Word)
  -- format EVT: the delivery of a scheduler event
  | driverStep
  | syncStep
  -- format INT: sub-operations
  | kickoff
  | elem
  | tagFetch
  | finalize
  -- format EXT: the host's other moves
  | runClear
  | redrive (delay : Nat)
  | forceStop
  | statusWrite (w : StatusWrite)
  | memWrite (addr : Word) (bytes : List Byte)
  | reset
  -- format PORT: calls on the collaborators
  | translate (addr : Word)
  | fetchTag (addr : Word)
  | unpack (words : List Word) (count : Nat) (isTagData : Bool)
  | chainAdvance (kind : TagKind)
  | scheduleEvent (ev : EventId) (delay : Nat)
  | setStallFlag (b : Bool)
  | raiseLine (cause : IrqCause)
  | log (message : LogMessage)
  | executeBlock
  | finishPass
  | executeQueuedProgram
  -- format PSEUDO: the notation's own operations (30_encoding.md R109)
  | startNormal (madr : Word) (n : Word)
  | startChain (tadr : Word) (tte tie : Bool)
  | ack (delay : Nat)
  | forceStopPseudo
  | run
deriving DecidableEq, Repr

/-- The operations the host can make a step of that have no encoding: the rows of formats EXT and PSEUDO. -/
inductive HostMove
  | runClear
  | redrive (delay : Nat)
  | forceStop
  | statusWrite (w : StatusWrite)
  | memWrite (addr : Word) (bytes : List Byte)
  | reset
  | startNormal (madr : Word) (n : Word)
  | startChain (tadr : Word) (tte tie : Bool)
  | ack (delay : Nat)
  | forceStopPseudo
  | run
deriving DecidableEq, Repr

/-- The formats that have an encoding, by the port an encoding arrives at (30_encoding.md R96): the memory port
for a tag, the register port for a read and for a write, the scheduler port for an event. -/
inductive Format
  | tag | regRead | regWrite | event
deriving DecidableEq, Repr, Inhabited

/-- An encoded operation: its port and its bytes, lowest address first. -/
structure Frame where
  fmt : Format
  bytes : List Byte
deriving DecidableEq, Repr, Inhabited

end Sys2Proof
end

