-- ==== Sys2Proof/WellFormed.lean ====
section
/-! DEFINITION. The bounds the spec puts on operands that their types do not already hold. -/

namespace Sys2Proof

/-- A status write leaves the queue depth in 0 to 8 (10_state.md R64). -/
def StatusWrite.wf (w : StatusWrite) : Bool :=
  match w.queueDepth with
  | none => true
  | some q => decide (q ≤ Config.fifoCap)

/-- One host store does not write an address twice: it covers at most the whole address space. -/
def storeWf (bytes : List Byte) : Bool :=
  decide (bytes.length ≤ 2 ^ 32)

/-- The count of a feed is the number of words offered (45_interfaces.md R185 (a)). -/
def feedWf (words : List Word) (count : Nat) : Bool :=
  count == words.length

/-- An operation is well formed; every other operand bound is in its type. -/
def Instr.wf : Instr → Bool
  | .unpack words count _ => feedWf words count
  | .statusWrite w => w.wf
  | .memWrite _ bytes => storeWf bytes
  | .refe _ | .cnt _ | .next _ | .ref _ | .refs _ | .call _ | .ret _ | .endTag _ => true
  | .rdChcr | .rdMadr | .rdQwc | .rdTadr | .rdAsr0 | .rdAsr1 => true
  | .wrChcr _ | .wrMadr _ | .wrQwc _ | .wrTadr _ | .wrAsr0 _ | .wrAsr1 _ => true
  | .driverStep | .syncStep | .kickoff | .elem | .tagFetch | .finalize => true
  | .runClear | .redrive _ | .forceStop | .reset => true
  | .translate _ | .fetchTag _ | .chainAdvance _ | .scheduleEvent _ _ | .setStallFlag _ => true
  | .raiseLine _ | .log _ | .executeBlock | .finishPass | .executeQueuedProgram => true
  | .startNormal _ _ | .startChain _ _ _ | .ack _ | .forceStopPseudo | .run => true

end Sys2Proof
end

