-- ==== Sys2Proof/Decode.lean ====
section
/-! DEFINITION. The decoder, total on any bytes, and the encoder (30_encoding.md). A tag is read from memory, a register
access and an event arrive at a port; the format is the port's, so it is no part of the bytes (R96). -/

namespace Sys2Proof

/-- Why a frame is no operation. -/
inductive DecodeError
  /-- The frame has not the one length of its format (30_encoding.md R107). -/
  | wrongLength
  /-- The offset selects no register (30_encoding.md R106, 93_implementation_defined.md U19). -/
  | noSuchRegister (offset : Byte)
deriving DecidableEq, Repr

/-! ### Bytes, little-endian (20_memory.md R84) -/

/-- The `n` low bytes of a number, lowest first. -/
def leBytes : Nat → Nat → List Byte
  | 0, _ => []
  | n + 1, v => BitVec.ofNat 8 v :: leBytes n (v / 256)

/-- The number that bytes make, lowest first. -/
def ofLeBytes : List Byte → Nat
  | [] => 0
  | b :: bs => b.toNat + 256 * ofLeBytes bs

/-! ### Tags (R97, R98) -/

/-- The number of a kind (R98). -/
def TagKind.bits : TagKind → BitVec 3
  | .refe => 0
  | .cnt => 1
  | .next => 2
  | .ref => 3
  | .refs => 4
  | .call => 5
  | .ret => 6
  | .endTag => 7

/-- The kind of a number: every value is a kind (R98, R100). -/
def kindOfBits (b : BitVec 3) : TagKind :=
  match b.toNat with
  | 0 => .refe
  | 1 => .cnt
  | 2 => .next
  | 3 => .ref
  | 4 => .refs
  | 5 => .call
  | 6 => .ret
  | _ => .endTag

/-- The kind of a tag, bits 30:28. -/
def tagKindOf (q : Quad) : TagKind :=
  kindOfBits (q.extractLsb' 28 3)

/-- The other fields of a tag (R97, R99). -/
def tagFieldsOf (q : Quad) : TagFields where
  qwc := q.extractLsb' 0 16
  unused := q.extractLsb' 16 10
  pce := q.extractLsb' 26 2
  irq := q.getLsbD 31
  addr := q.extractLsb' 32 32
  data := q.extractLsb' 64 64

/-- The 128 bits of a tag (R97). -/
def packTag (k : TagKind) (t : TagFields) : Quad :=
  (t.data ++ t.addr ++ BitVec.ofBool t.irq ++ k.bits ++ t.pce ++ t.unused ++ t.qwc : BitVec (64 + 32 + 1 + 3 + 2 + 10 + 16))

/-- The operation a tag is. -/
def TagKind.instr (k : TagKind) (t : TagFields) : Instr :=
  match k with
  | .refe => .refe t
  | .cnt => .cnt t
  | .next => .next t
  | .ref => .ref t
  | .refs => .refs t
  | .call => .call t
  | .ret => .ret t
  | .endTag => .endTag t

/-- The operation 128 bits read from memory are: no tag is illegal (R100). -/
def decodeTag (q : Quad) : Instr :=
  (tagKindOf q).instr (tagFieldsOf q)

/-! ### Register accesses (R101) and events (R105) -/

/-- The byte offset of a register from `REG_BASE` (R101). -/
def Reg.offset : Reg → Byte
  | .chcr => 0x00
  | .madr => 0x10
  | .qwc => 0x20
  | .tadr => 0x30
  | .asr0 => 0x40
  | .asr1 => 0x50

/-- The register an offset selects, if any (R101, R106). -/
def regOfOffset (o : Byte) : Option Reg :=
  match o.toNat with
  | 0x00 => some .chcr
  | 0x10 => some .madr
  | 0x20 => some .qwc
  | 0x30 => some .tadr
  | 0x40 => some .asr0
  | 0x50 => some .asr1
  | _ => none

/-- The read of a register. -/
def Reg.readInstr : Reg → Instr
  | .chcr => .rdChcr
  | .madr => .rdMadr
  | .qwc => .rdQwc
  | .tadr => .rdTadr
  | .asr0 => .rdAsr0
  | .asr1 => .rdAsr1

/-- The write of a register. -/
def Reg.writeInstr (v : Word) : Reg → Instr
  | .chcr => .wrChcr v
  | .madr => .wrMadr v
  | .qwc => .wrQwc v
  | .tadr => .wrTadr v
  | .asr0 => .wrAsr0 v
  | .asr1 => .wrAsr1 v

/-- The id of an event (R105). -/
def EventId.bit : EventId → BitVec 1
  | .driver => 0
  | .sync => 1

/-- The event of an id. -/
def eventOfBit (b : BitVec 1) : EventId :=
  if b = 0 then .driver else .sync

/-- The delivery of an event. -/
def EventId.instr : EventId → Instr
  | .driver => .driverStep
  | .sync => .syncStep

/-! ### The decoder -/

/-- The operation of a frame, or the name of what is wrong with it. A register access is the offset byte, and for a
write four data bytes; an event is one byte of which bit 0 is the id (log 12). -/
def decode (f : Frame) : Except DecodeError Instr :=
  match f.fmt with
  | .tag =>
    if f.bytes.length = Config.tagBytes then .ok (decodeTag (BitVec.ofNat 128 (ofLeBytes f.bytes)))
    else .error .wrongLength
  | .regRead =>
    match f.bytes with
    | [o] =>
      match regOfOffset o with
      | some r => .ok r.readInstr
      | none => .error (.noSuchRegister o)
    | _ => .error .wrongLength
  | .regWrite =>
    match f.bytes with
    | [o, b0, b1, b2, b3] =>
      match regOfOffset o with
      | some r => .ok (r.writeInstr (BitVec.ofNat 32 (ofLeBytes [b0, b1, b2, b3])))
      | none => .error (.noSuchRegister o)
    | _ => .error .wrongLength
  | .event =>
    match f.bytes with
    | [b] => .ok (eventOfBit (b.extractLsb' 0 1)).instr
    | _ => .error .wrongLength

/-! ### The encoder -/

/-- The frame of a tag: its sixteen bytes in memory. -/
def tagFrame (k : TagKind) (t : TagFields) : Frame :=
  ⟨.tag, leBytes Config.tagBytes (packTag k t).toNat⟩

/-- The frame of a register read. -/
def readFrame (r : Reg) : Frame :=
  ⟨.regRead, [r.offset]⟩

/-- The frame of a register write. -/
def writeFrame (r : Reg) (v : Word) : Frame :=
  ⟨.regWrite, r.offset :: leBytes 4 v.toNat⟩

/-- The frame of an event. -/
def eventFrame (e : EventId) : Frame :=
  ⟨.event, [e.bit.zeroExtend 8]⟩

/-- The frame of an operation; the rows of formats INT, EXT, PORT and PSEUDO have none (30_encoding.md R96). -/
def encode : Instr → Option Frame
  | .refe t => some (tagFrame .refe t)
  | .cnt t => some (tagFrame .cnt t)
  | .next t => some (tagFrame .next t)
  | .ref t => some (tagFrame .ref t)
  | .refs t => some (tagFrame .refs t)
  | .call t => some (tagFrame .call t)
  | .ret t => some (tagFrame .ret t)
  | .endTag t => some (tagFrame .endTag t)
  | .rdChcr => some (readFrame .chcr)
  | .wrChcr v => some (writeFrame .chcr v)
  | .rdMadr => some (readFrame .madr)
  | .wrMadr v => some (writeFrame .madr v)
  | .rdQwc => some (readFrame .qwc)
  | .wrQwc v => some (writeFrame .qwc v)
  | .rdTadr => some (readFrame .tadr)
  | .wrTadr v => some (writeFrame .tadr v)
  | .rdAsr0 => some (readFrame .asr0)
  | .wrAsr0 v => some (writeFrame .asr0 v)
  | .rdAsr1 => some (readFrame .asr1)
  | .wrAsr1 v => some (writeFrame .asr1 v)
  | .driverStep => some (eventFrame .driver)
  | .syncStep => some (eventFrame .sync)
  | .kickoff | .elem | .tagFetch | .finalize => none
  | .runClear | .redrive _ | .forceStop | .statusWrite _ | .memWrite _ _ | .reset => none
  | .translate _ | .fetchTag _ | .unpack _ _ _ | .chainAdvance _ | .scheduleEvent _ _ | .setStallFlag _ => none
  | .raiseLine _ | .log _ | .executeBlock | .finishPass | .executeQueuedProgram => none
  | .startNormal _ _ | .startChain _ _ _ | .ack _ | .forceStopPseudo | .run => none

/-! ### The operations without an encoding, and the opcode table's words -/

/-- The operation a host's move is. -/
def HostMove.instr : HostMove → Instr
  | .runClear => .runClear
  | .redrive d => .redrive d
  | .forceStop => .forceStop
  | .statusWrite w => .statusWrite w
  | .memWrite a bs => .memWrite a bs
  | .reset => .reset
  | .startNormal a n => .startNormal a n
  | .startChain a tte tie => .startChain a tte tie
  | .ack d => .ack d
  | .forceStopPseudo => .forceStopPseudo
  | .run => .run

/-- The frame of a word of spec/opcode_table.json. More than eight bits is a tag. Eight bits are a register's offset,
taken as a read, or else an event's id: the table gives a read, a write and an event words that overlap, and tells them
apart by format only (log 10). -/
def tableFrame (nbits w : Nat) : Frame :=
  if 8 < nbits then ⟨.tag, leBytes Config.tagBytes w⟩
  else if (regOfOffset (BitVec.ofNat 8 w)).isSome then ⟨.regRead, leBytes 1 w⟩
  else ⟨.event, leBytes 1 w⟩

/-- The operation the decoder reads from a word of the opcode table. -/
def decodeTableWord (nbits w : Nat) : Option Instr :=
  (decode (tableFrame nbits w)).toOption

end Sys2Proof
end

