-- ==== Sys2Proof/Machine/State.lean ====
section
/-! DEFINITION. The state of the machine as plain data (10_state.md), the reasons a step can stop, and the state right
after reset. -/

namespace Sys2Proof.Machine

/-- Why the machine stops with a fault: for no reason. The block has no fault outcome for any rule (60_exceptions.md R197,
93_implementation_defined.md section 1, "No case is `fault`"), so there is no constructor and no operation answers one. -/
inductive Fault
deriving DecidableEq, Repr

/-- Why a step has no meaning. -/
inductive Refusal
  /-- No meaning for the instruction yet. Raised by an arm of exec that stands for it. Safe. -/
  | notModelled (mnemonic : String)
  /-- An element would be transferred from an address that is no multiple of 16 (20_memory.md R87). Raised by ELEM. Safe. -/
  | misalignedElement (addr : Word)
  /-- A tag would be fetched from an address that is no multiple of 16 (20_memory.md R87). Raised by TAGFETCH and
  fetchTag. Safe. -/
  | misalignedTag (addr : Word)
  /-- A fetched tag's address field is no multiple of 16 (30_encoding.md R99, 20_memory.md R87). Raised by the eight tags.
  Safe. -/
  | misalignedField (addr : Word)
  /-- A run would start, or go on, with `R.madr` or `R.tadr` no multiple of 16 (20_memory.md R87). Raised by KICKOFF, hence
  by a write that kicks off, and by DRIVERSTEP. Safe. -/
  | misalignedRun (madr tadr : Word)
  /-- A frame at an input port is no operation (30_encoding.md R106). Raised by step. Safe. -/
  | undecodable (e : DecodeError)
  /-- A host move outside the bounds of its operands (WellFormed.lean). Raised by step. Safe. -/
  | illFormed
deriving DecidableEq, Repr

/-- The result of an operation that may stop. -/
abbrev Res (α : Type) := Host.Outcome α Fault Refusal

/-! ### Channel registers `R` (10_state.md R23 to R37) -/

/-- The control register by fields (30_encoding.md R102). -/
structure Chcr where
  dir : Bool
  held1 : Bool
  mod : BitVec 2
  asp : BitVec 2
  tte : Bool
  tie : Bool
  run : Bool
  held9 : BitVec 7
  lastTag : BitVec 16
deriving DecidableEq, Repr

/-- The register block. -/
structure Regs where
  chcr : Chcr
  madr : Word
  qwc : Word
  tadr : Word
  asr0 : Word
  asr1 : Word
deriving DecidableEq, Repr

/-! ### Runtime state `V` (R39 to R51) -/

/-- `V.resumeOffset` (R45). -/
structure ResumeOffset where
  enabled : Bool
  wordCount : Nat
deriving DecidableEq, Repr

/-- `V.mode` (R48). -/
inductive RunMode
  | normalFromMemory | chain
deriving DecidableEq, Repr

/-- The runtime state. -/
structure Runtime where
  cmd : Nat
  tagSize : Nat
  inProgress : Bool
  done : Bool
  pendingIrqCount : Nat
  resumeOffset : ResumeOffset
  stall : Stall
  waitingForCoprocessor : Bool
  mode : RunMode
  queuedProgramPending : Bool
deriving DecidableEq, Repr

/-! ### The status blocks `P`, `T`, the flag `G`, the hidden state `H` (R52 to R72) -/

/-- Co-processor status (R52 to R56). -/
structure Coproc where
  busy : Bool
  stopped : Bool
  nextBlockCost : Nat
  elapsedCycles : Nat
deriving DecidableEq, Repr

/-- Channel status (R57 to R65). -/
structure Status where
  stopped : Bool
  irqStalled : Bool
  otherStall : Bool
  errorSub : Bool
  decodePhase : DecodePhase
  waitPeerPath : Bool
  waitPeer : Bool
  queueDepth : Nat
  interruptFlag : Bool
deriving DecidableEq, Repr

/-- The flag of the enclosing controller (R66). -/
structure Globals where
  dmaEnable : Bool
deriving DecidableEq, Repr

/-- A registered event: its delay (R68) and the cycle it was registered at (45_interfaces.md R189). -/
structure Pending where
  delay : Nat
  since : Nat
deriving DecidableEq, Repr

/-- Hidden state (R67 to R70). -/
structure Hidden where
  cycles : Nat
  pendDriver : Option Pending
  pendSync : Option Pending
  stallInd : Bool
  now : Nat
deriving DecidableEq, Repr

/-! ### Memory -/

/-- The physical address space: the bytes that have been written, addresses strictly rising. An unlisted byte has no
value of its own (Ops.lean `State.byteAt`, log 6). -/
abbrev Memory := List Host.Cell

/-! ### The model's own fields -/

/-- The collaborators' replies still to come, and the index of the next free value (log 2). -/
structure Env where
  unpacks : List UnpackReply
  blocks : List BlockReply
  passes : List PassReply
  queued : List QueuedReply
  fetchStalls : List Bool
  draws : Nat
deriving DecidableEq, Repr

/-- A move of an agent outside the block, which a step takes up (00_scope.md R10, log 1). -/
inductive Input
  /-- A host read at the register port. -/
  | read (bytes : List Byte)
  /-- A host write at the register port. -/
  | write (bytes : List Byte)
  /-- The scheduler delivers an event. -/
  | event (bytes : List Byte)
  /-- A host move without an encoding. -/
  | move (m : HostMove)
  /-- The clock advances and nothing else happens. -/
  | wait (cycles : Nat)
deriving DecidableEq, Repr

/-- The anomalies, by the spec's names (60_exceptions.md R198). -/
inductive Anomaly
  | unmappedElement | runBitClear | fetchStall | peerPathWait | stackOverflow | stackUnderflow | feedRefused
deriving DecidableEq, Repr

/-- How a driver step ended (00_scope.md R12). -/
inductive StepEnd
  | rescheduleAfter (delay : Nat) | idle | done
deriving DecidableEq, Repr

/-- What `fetchTag` replies (45_interfaces.md R184). -/
inductive FetchReply
  | stall | tag (q : Quad)
deriving DecidableEq, Repr

/-- One entry of the trace: a port call with its reply, or a note the spec gives a name for (log 13). -/
inductive TraceEvent
  | regRead (r : Reg) (value : Word)
  | translate (addr : Word) (ok : Bool)
  | fetchTag (addr : Word) (reply : FetchReply)
  | unpack (words : List Word) (isTagData : Bool) (resume : ResumeOffset) (consumed : Bool) (taken : Nat)
  | chainAdvance (kind : TagKind) (endOfChain : Bool)
  | scheduleEvent (ev : EventId) (delay : Nat)
  | setStallFlag (b : Bool)
  | raiseLine (cause : IrqCause)
  | log (message : LogMessage)
  | executeBlock
  | finishPass
  | executeQueuedProgram
  | elemReport (result : Bool)
  | anomaly (a : Anomaly)
  | stepEnd (e : StepEnd)
deriving DecidableEq, Repr

/-! ### The state -/

/-- Everything the machine holds. The first seven fields are the spec's; the last five are the model's own. -/
structure State where
  /-- Channel registers. -/
  r : Regs
  /-- Runtime state. -/
  v : Runtime
  /-- Channel status. -/
  t : Status
  /-- Co-processor status. -/
  p : Coproc
  /-- Global flag. -/
  g : Globals
  /-- Hidden state. -/
  h : Hidden
  /-- The physical address space. -/
  mem : Memory
  /-- The open parameters; no step changes them. -/
  platform : Platform
  /-- The collaborators' replies still to come. -/
  env : Env
  /-- The moves of the host and the scheduler still to come. -/
  inputs : List Input
  /-- What the ports have carried, newest first. -/
  trace : List TraceEvent
  /-- A SYNCSTEP whose catch-up loop never ends is under way: it does not complete, and no agent steps again
  (93_implementation_defined.md U8, `stuck`; log 15). -/
  hung : Bool
deriving DecidableEq, Repr

/-! ### Reset (10_state.md R73 to R77) -/

/-- `R.chcr` reads as 0 (R74). -/
def Chcr.reset : Chcr :=
  ⟨false, false, 0, 0, false, false, false, 0, 0⟩

/-- The registers at power-on; those without a value of the spec's (R73) hold 0, DESIGN CHOICE (log 4). -/
def Regs.reset : Regs :=
  ⟨Chcr.reset, 0, 0, 0, 0, 0⟩

/-- R75. -/
def Runtime.reset : Runtime where
  cmd := 0
  tagSize := 0
  inProgress := false
  done := false
  pendingIrqCount := 0
  resumeOffset := ⟨false, 0⟩
  stall := ⟨false, .timingBreak⟩
  waitingForCoprocessor := false
  mode := .normalFromMemory
  queuedProgramPending := false

/-- R76. -/
def Coproc.reset : Coproc :=
  ⟨false, false, 0, 0⟩

/-- R76. -/
def Status.reset : Status where
  stopped := false
  irqStalled := false
  otherStall := false
  errorSub := false
  decodePhase := .idle
  waitPeerPath := false
  waitPeer := false
  queueDepth := 0
  interruptFlag := false

/-- R76. -/
def Globals.reset : Globals :=
  ⟨false⟩

/-- R77. -/
def Hidden.reset : Hidden :=
  ⟨0, none, none, false, 0⟩

/-- No reply is known. -/
def Env.reset : Env :=
  ⟨[], [], [], [], [], 0⟩

/-- The machine right after reset: idle, memory with nothing listed, nothing to come, nothing on the trace, no step
under way. -/
def State.reset : State where
  r := Regs.reset
  v := Runtime.reset
  t := Status.reset
  p := Coproc.reset
  g := Globals.reset
  h := Hidden.reset
  mem := []
  platform := Config.platform
  env := Env.reset
  inputs := []
  trace := []
  hung := false

end Sys2Proof.Machine
end

