-- ==== Sys2Proof/Machine/Operands.lean ====
section
/-! DEFINITION. The operand forms: the control register as 32 bits, the registers by name, the operands of a tag, the
addresses of a transfer (10_state.md, 30_encoding.md, 41_chain_walker.md). -/

namespace Sys2Proof.Machine

/-! ### Addresses -/

/-- A multiple of 16: the invariant "addresses quadword-aligned" (10_state.md R37, 20_memory.md R86). -/
def aligned (a : Word) : Bool :=
  a.extractLsb' 0 4 == 0

/-- `R.madr` and `R.tadr` are multiples of 16: a run with another value in either has no meaning (20_memory.md R87). -/
def Regs.onQuadwords (r : Regs) : Bool :=
  aligned r.madr && aligned r.tadr

/-- `a +32 n` (00_scope.md R14, R18). -/
def addrPlus (a : Word) (n : Nat) : Word :=
  a + BitVec.ofNat 32 n

/-! ### The control register (30_encoding.md R102) -/

/-- The register's fields from the 32 bits written to it (40_host_kickoff.md R112). -/
def unpackChcr (v : Word) : Chcr where
  dir := v.getLsbD 0
  held1 := v.getLsbD 1
  mod := v.extractLsb' 2 2
  asp := v.extractLsb' 4 2
  tte := v.getLsbD 6
  tie := v.getLsbD 7
  run := v.getLsbD 8
  held9 := v.extractLsb' 9 7
  lastTag := v.extractLsb' 16 16

/-- The 32 bits the register reads as (40_host_kickoff.md R110). -/
def packChcr (c : Chcr) : Word :=
  (c.lastTag ++ c.held9 ++ BitVec.ofBool c.run ++ BitVec.ofBool c.tie ++ BitVec.ofBool c.tte ++ c.asp ++ c.mod ++
    BitVec.ofBool c.held1 ++ BitVec.ofBool c.dir : BitVec (16 + 7 + 1 + 1 + 1 + 2 + 2 + 1 + 1))

/-- "`mode = Chain` only if the control register selects chain addressing": 1, and nothing else (R103). -/
def Chcr.selectsChain (c : Chcr) : Bool :=
  c.mod == 1

/-- The kind of the implied first element, register bits 30:28 (R104). -/
def Chcr.impliedKind (c : Chcr) : TagKind :=
  kindOfBits (c.lastTag.extractLsb' 12 3)

/-- The IRQ request of the implied first element, register bit 31 (R104). -/
def Chcr.impliedIrq (c : Chcr) : Bool :=
  c.lastTag.getLsbD 15

/-! ### Registers by name -/

/-- What a read of a register returns (40_host_kickoff.md R110). -/
def readReg (r : Regs) : Reg → Word
  | .chcr => packChcr r.chcr
  | .madr => r.madr
  | .qwc => r.qwc
  | .tadr => r.tadr
  | .asr0 => r.asr0
  | .asr1 => r.asr1

/-- A register takes a value (R111); for the control register, its fields (R112). -/
def writeReg (r : Regs) (v : Word) : Reg → Regs
  | .chcr => { r with chcr := unpackChcr v }
  | .madr => { r with madr := v }
  | .qwc => { r with qwc := v }
  | .tadr => { r with tadr := v }
  | .asr0 => { r with asr0 := v }
  | .asr1 => { r with asr1 := v }

/-! ### The operands of a tag (30_encoding.md R99) -/

/-- Bits 31:16 of a tag, which a fetch copies into `lastTag` (41_chain_walker.md R134). -/
def tagUpperHalf (k : TagKind) (t : TagFields) : BitVec 16 :=
  (BitVec.ofBool t.irq ++ k.bits ++ t.pce ++ t.unused : BitVec (1 + 3 + 2 + 10))

/-- The words of the masked tag: the lower 8 bytes are zero (R99). -/
def maskedTag (t : TagFields) : List Word :=
  [0, 0, t.data.extractLsb' 0 32, t.data.extractLsb' 32 32]

/-! ### The operands of a transfer -/

/-- The words an element feed skips (41_chain_walker.md R130). -/
def elemOffset (v : Runtime) : Nat :=
  if v.resumeOffset.enabled then v.resumeOffset.wordCount else 0

/-- The words an element feed offers: over the naturals, with no wrap (R130, 00_scope.md R19). -/
def elemCount (r : Regs) (v : Runtime) : Nat :=
  4 * r.qwc.toNat - elemOffset v

/-- The words a tag-data feed skips (R139, R140). -/
def tagDataOffset (v : Runtime) : Nat :=
  if v.resumeOffset.enabled then min v.resumeOffset.wordCount 4 else Config.freshTagSkip

/-- The quadword after a tag at `R.tadr`. -/
def afterTag (r : Regs) : Word :=
  addrPlus r.tadr 16

/-- The quadword after the data that follows a tag at `R.tadr`, `A + 16 + 16n` (42_chain_tags.md R150). -/
def afterTagData (r : Regs) : Word :=
  addrPlus (afterTag r) (16 * r.qwc.toNat)

/-! ### The open parameters -/

/-- Whether a range holds an address. -/
def MapRange.holds (m : MapRange) (a : Word) : Bool :=
  decide (m.base.toNat ≤ a.toNat) && decide (a.toNat < m.base.toNat + m.size)

/-- `MAPPED(a)` (20_memory.md R79): the first range that holds the address says, else it is open. -/
def isMapped (p : Platform) (a : Word) : Bool :=
  match p.ranges.find? (fun m => MapRange.holds m a) with
  | some m => m.mapped
  | none => Config.mapped a

/-- `EXEMPT_CLASS(cmd)` (92_eei_decisions.md D26). -/
def isExempt (p : Platform) (cmd : Nat) : Bool :=
  (p.exempt.lookup cmd).getD (Config.exemptClass cmd)

/-- `XFER_COST(n)` (D31). -/
def xferCost (p : Platform) (n : Nat) : Nat :=
  (p.costs.lookup n).getD (Config.xferCost n)

/-- `FINISH_BIAS`, at least 1 (D30). -/
def finishBias (p : Platform) : Nat :=
  max 1 p.finishBias

/-- The bus address of a register (30_encoding.md R101). -/
def regAddress (p : Platform) (r : Reg) : Word :=
  p.regBase + r.offset.zeroExtend 32

end Sys2Proof.Machine
end

