-- ==== Sys2Proof/Machine/Flags.lean ====
section
/-! DEFINITION. Every flag computation: the stall sub-states, the decode phase, the queue depth, the conditions of the
driver's and the synchronizer's steps, the writes of the status blocks' owners (10_state.md, 43, 44, 45). -/

namespace Sys2Proof.Machine

/-- `anyStallSub(T)` (10_state.md R59). -/
def anyStallSub (t : Status) : Bool :=
  t.stopped || t.irqStalled || t.otherStall

/-- `min(R.qwc, FIFO_CAP)` (10_state.md R64). -/
def depthOf (qwc : Word) : Nat :=
  min qwc.toNat Config.fifoCap

/-- `DECODE_PHASE_FN` (44_completion_driver.md R174). -/
def decodePhaseFn (cmd : Nat) (done : Bool) (qwc : Word) (old : DecodePhase) : DecodePhase :=
  if cmd = 0 then .idle
  else if done && qwc == 0 then .waiting
  else old

/-- An interrupt stall with a request pending: the condition of driver step 5 (R172). -/
def irqDue (v : Runtime) : Bool :=
  v.stall.enabled && v.stall.reason == .irqStall && decide (0 < v.pendingIrqCount)

/-- A signalled interrupt suspends the run (R172), asked after the step's own flag writes. -/
def suspends (s : State) : Bool :=
  anyStallSub s.t && (s.r.qwc != 0 || !s.v.done)

/-- The implied first element is terminal (40_host_kickoff.md R115). -/
def impliedTerminal (c : Chcr) : Bool :=
  c.impliedKind == .refe || c.impliedKind == .endTag || (c.impliedIrq && c.tie)

/-- The co-processor's lag behind the global clock (43_vu_synchronizer.md R159). -/
def cycleGap (s : State) : Int :=
  (s.h.now : Int) - (s.p.elapsedCycles : Int)

/-- The pacing test (R161). -/
def paceAllows (s : State) : Bool :=
  !s.platform.pacing || decide ((s.p.nextBlockCost : Int) ≤ cycleGap s)

/-- The catch-up loop goes round once more (R160). -/
def mustCatchUp (s : State) : Bool :=
  s.p.busy && paceAllows s

/-- The synchronizer re-invokes the driver (R165). -/
def mayReinvoke (s : State) : Bool :=
  s.h.pendDriver.isNone && s.h.pendSync.isNone && s.r.chcr.run && !anyStallSub s.t

/-- What the driver's step is about to do (10_state.md R72): logical phases, functions of the state at its start. -/
inductive Phase
  | awaitingCoprocessor | stalledOnInterrupt | transferring | held | fetching | finishing
deriving DecidableEq, Repr

/-- The state after a driver step has signalled an interrupt, as far as the step's own conditions read it (R172). -/
def signalledStatus (p : Platform) (v : Runtime) (t : Status) : Status :=
  { t with
    interruptFlag := t.interruptFlag || !t.errorSub
    irqStalled := t.irqStalled || !isExempt p v.cmd }

/-- The driver's phase, by the arbiter's priorities (44_completion_driver.md R180, 60_exceptions.md R208). -/
def driverPhase (s : State) : Phase :=
  if s.v.waitingForCoprocessor then .awaitingCoprocessor
  else if irqDue s.v && suspends { s with t := signalledStatus s.platform s.v s.t } then .stalledOnInterrupt
  else if s.v.inProgress then .transferring
  else if !s.v.done then
    if !s.g.dmaEnable || s.t.stopped then .held else .fetching
  else .finishing

/-! ### Writes of the status blocks' owners (45_interfaces.md R186, 40_host_kickoff.md R125) -/

/-- A write of status flags. -/
def applyStatusFx (fx : StatusFx) (t : Status) : Status :=
  { t with
    stopped := fx.stopped.getD t.stopped
    irqStalled := fx.irqStalled.getD t.irqStalled
    otherStall := fx.otherStall.getD t.otherStall
    errorSub := fx.errorSub.getD t.errorSub
    decodePhase := fx.decodePhase.getD t.decodePhase
    waitPeerPath := fx.waitPeerPath.getD t.waitPeerPath
    waitPeer := fx.waitPeer.getD t.waitPeer
    interruptFlag := fx.interruptFlag.getD t.interruptFlag }

/-- A write of the co-processor's status. -/
def applyCoprocFx (fx : CoprocFx) (p : Coproc) : Coproc where
  busy := fx.busy.getD p.busy
  stopped := fx.stopped.getD p.stopped
  nextBlockCost := fx.nextBlockCost.getD p.nextBlockCost
  elapsedCycles := fx.elapsedCycles.getD p.elapsedCycles

/-- A collaborator's writes of the runtime state: requests are added, the wait is only set (R186). -/
def applyRuntimeFx (fx : Effects) (v : Runtime) : Runtime :=
  { v with
    cmd := fx.cmd.getD v.cmd
    tagSize := fx.tagSize.getD v.tagSize
    pendingIrqCount := v.pendingIrqCount + fx.addIrqs
    stall := fx.stall.getD v.stall
    waitingForCoprocessor := v.waitingForCoprocessor || fx.setWaiting
    queuedProgramPending := fx.queuedProgramPending.getD v.queuedProgramPending }

/-- The effects of a collaborator's reply. -/
def applyEffects (fx : Effects) (s : State) : State :=
  { s with
    v := applyRuntimeFx fx s.v
    t := applyStatusFx fx.status s.t
    p := applyCoprocFx fx.coproc s.p }

/-- An owner's write to the status blocks (40_host_kickoff.md R125). -/
def applyStatusWrite (w : StatusWrite) (s : State) : State :=
  { s with
    t := { applyStatusFx w.status s.t with queueDepth := w.queueDepth.getD s.t.queueDepth }
    p := applyCoprocFx w.coproc s.p
    g := { dmaEnable := w.dmaEnable.getD s.g.dmaEnable } }

/-! ### Between steps (60_exceptions.md R217) -/

/-- No event pending. -/
def noEvent (h : Hidden) : Bool :=
  h.pendDriver.isNone && h.pendSync.isNone

/-- Between runs. -/
def isIdle (s : State) : Bool :=
  !s.r.chcr.run && noEvent s.h

/-- Within a run that nothing inside the block will resume. -/
def isSuspended (s : State) : Bool :=
  s.r.chcr.run && noEvent s.h

end Sys2Proof.Machine
end

