-- ==== Sys2Proof/Machine/Ops.lean ====
section
/-! DEFINITION. The named operations: memory (20_memory.md), draws, the ports of 45_interfaces.md, delivery of events.
The block takes no exception and has no handler (60_exceptions.md R197, R209): what stands in its place is the one
operation `raiseLine`, a pulse of the interrupt line, and nothing of the state is saved or restored. -/

namespace Sys2Proof.Machine

/-! ### Results -/

/-- Go on with the result of an operation that may stop. -/
def andThen {α β : Type} (x : Res α) (f : α → Res β) : Res β :=
  match x with
  | .next a => f a
  | .fault r => .fault r
  | .refused r => .refused r

/-! ### Memory -/

/-- The byte listed at an address, if any. -/
def memGet : Memory → Nat → Option Byte
  | [], _ => none
  | (k, b) :: m, a => if a = k then some b else memGet m a

/-- List a byte at an address, keeping the addresses strictly rising. -/
def memSet : Memory → Nat → Byte → Memory
  | [], a, b => [(a, b)]
  | (k, c) :: m, a, b =>
    if a < k then (a, b) :: (k, c) :: m
    else if a = k then (a, b) :: m
    else (k, c) :: memSet m a b

/-- The canonical form: addresses strictly rising, all below 2^32. An unlisted byte has no value of its own, so no entry
can equal one (log 6). -/
def Memory.wf : Memory → Bool
  | [] => true
  | [(k, _)] => decide (k < 2 ^ 32)
  | (k, _) :: (j, c) :: m => decide (k < j) && Memory.wf ((j, c) :: m)

/-- Store bytes from an address up, wrapping at the top (20_memory.md R89). -/
def storeBytes : Memory → Word → List Byte → Memory
  | m, _, [] => m
  | m, a, b :: bs => storeBytes (memSet m a.toNat b) (a + 1) bs

/-- The byte memory holds at an address: what was written, else what it held at power-on (log 6). -/
def byteAt (s : State) (a : Word) : Byte :=
  (memGet s.mem a.toNat).getD (Config.powerOnByte a)

/-- The byte an access of the block reads: memory's where the address is mapped, else a draw (20_memory.md R79). -/
def readByte (s : State) (a : Word) : Byte :=
  if isMapped s.platform a then byteAt s a else Config.freeByte s.env.draws a

/-- The word at an address: little-endian, each byte's address wrapping (20_memory.md R84, R89). -/
def readWord (s : State) (a : Word) : Word :=
  (readByte s (addrPlus a 3) ++ readByte s (addrPlus a 2) ++ readByte s (addrPlus a 1) ++ readByte s a : BitVec (8 + 8 + 8 + 8))

/-- `MemRead(a, 16)` as a quadword, word 0 lowest (20_memory.md R83). -/
def readQuad (s : State) (a : Word) : Quad :=
  (readWord s (addrPlus a 12) ++ readWord s (addrPlus a 8) ++ readWord s (addrPlus a 4) ++ readWord s a : BitVec (32 + 32 + 32 + 32))

/-- `n` words from an address up, in ascending order (41_chain_walker.md R130). -/
def readWords (s : State) (a : Word) (n : Nat) : List Word :=
  (List.range n).map fun j => readWord s (addrPlus a (4 * j))

/-! ### Draws -/

/-- The next draw: the head of a tape, else the next free value. -/
def drawn {α : Type} (tape : List α) (free : Nat → α) (n : Nat) : α :=
  tape.headD (free n)

/-- The counter of free values after a draw from a tape. -/
def drawsAfter {α : Type} (tape : List α) (n : Nat) : Nat :=
  if tape.isEmpty then n + 1 else n

/-- Later unmapped bytes are fresh draws. -/
def freshDraws (s : State) : State :=
  { s with env := { s.env with draws := s.env.draws + 1 } }

/-! ### The trace -/

/-- Record an event. -/
def emit (e : TraceEvent) (s : State) : State :=
  { s with trace := e :: s.trace }

/-- The identifier a port call carries (00_scope.md R9 `CHANNEL_ID`). -/
def channelOf (p : Platform) : TraceEvent → Option Nat
  | .scheduleEvent _ _ | .setStallFlag _ | .raiseLine _ => some p.channelId
  | _ => none

/-! ### The memory port -/

/-- `translate(a)` (45_interfaces.md R183). -/
def translate (a : Word) (s : State) : Bool × State :=
  (isMapped s.platform a, emit (.translate a (isMapped s.platform a)) s)

/-- Whether the next fetch stalls for a reason of the collaborator's own, drawn. -/
def drawFetchStall (s : State) : Bool × State :=
  (drawn s.env.fetchStalls Config.freeFetchStall s.env.draws,
    { s with env := { s.env with
      fetchStalls := s.env.fetchStalls.tail
      draws := drawsAfter s.env.fetchStalls s.env.draws } })

/-- A fetch that stalls: nothing but the trace (41_chain_walker.md R133, 60_exceptions.md R201). -/
def fetchStalled (a : Word) (s : State) : FetchReply × State :=
  (.stall, emit (.anomaly .fetchStall) (emit (.fetchTag a .stall) s))

/-- `fetchTag(a)` (45_interfaces.md R184): a stall where the address is unmapped or by the collaborator's own draw, else
the sixteen bytes. -/
def fetchTag (a : Word) (s : State) : FetchReply × State :=
  if !isMapped s.platform a then fetchStalled a s
  else
    let d := drawFetchStall s
    if d.1 then fetchStalled a d.2
    else (.tag (readQuad d.2 a), freshDraws (emit (.fetchTag a (.tag (readQuad d.2 a))) d.2))

/-! ### The downstream port -/

/-- The words a reply of `unpack` accepts of those offered (45_interfaces.md R185 (b), (c)). -/
def takenOf (r : UnpackReply) (count : Nat) : Nat :=
  if r.consumed then count else min r.taken count

/-- The reply the next call of `unpack` gets. -/
def nextUnpack (s : State) : UnpackReply :=
  drawn s.env.unpacks Config.freeUnpack s.env.draws

/-- `unpack(words, count, isTagData)` with its effects applied (R185, R186): the reply and the state after. -/
def unpack (words : List Word) (count : Nat) (isTagData : Bool) (s : State) : UnpackReply × State :=
  let r := nextUnpack s
  let noted := emit (.unpack words isTagData s.v.resumeOffset r.consumed (takenOf r count))
    { s with env := { s.env with unpacks := s.env.unpacks.tail, draws := drawsAfter s.env.unpacks s.env.draws } }
  (r, applyEffects r.fx (if r.consumed then noted else emit (.anomaly .feedRefused) noted))

/-! ### The scheduler port -/

/-- Put a registration in an event's slot. -/
def setPending (ev : EventId) (x : Option Pending) (h : Hidden) : Hidden :=
  match ev with
  | .driver => { h with pendDriver := x }
  | .sync => { h with pendSync := x }

/-- An event's slot. -/
def pendingOf (ev : EventId) (h : Hidden) : Option Pending :=
  match ev with
  | .driver => h.pendDriver
  | .sync => h.pendSync

/-- `scheduleEvent(ev, delta)`: one registration of each kind, the last one stands (45_interfaces.md R188). -/
def scheduleEvent (ev : EventId) (delay : Nat) (s : State) : State :=
  emit (.scheduleEvent ev delay) { s with h := setPending ev (some ⟨delay, s.h.now⟩) s.h }

/-- `setStallFlag(b)` (R190). -/
def setStallFlag (b : Bool) (s : State) : State :=
  emit (.setStallFlag b) { s with h := { s.h with stallInd := b } }

/-- Delivery: the clock has reached the cycle the event is due, and the pending mark is cleared before the handler runs
(R189). An event that is not pending leaves the state as it is. -/
def deliver (ev : EventId) (s : State) : State :=
  match pendingOf ev s.h with
  | none => s
  | some p => { s with h := { setPending ev none s.h with now := max s.h.now (p.since + p.delay) } }

/-- The cycle a registered event is due (R189). -/
def dueAt (p : Pending) : Nat :=
  p.since + p.delay

/-- The event the scheduler delivers on its own: a pending one; of two, the one due at the earlier cycle
(60_exceptions.md R208), and of two due at one cycle either (log 14). -/
def pickEvent (s : State) : Option EventId :=
  match s.h.pendDriver, s.h.pendSync with
  | none, none => none
  | some _, none => some .driver
  | none, some _ => some .sync
  | some p, some q =>
    if dueAt p < dueAt q then some .driver
    else if dueAt q < dueAt p then some .sync
    else some (if Config.freeOrder s.env.draws then .driver else .sync)

/-- The clock at the delivery of an event the scheduler delivers on its own: not before it is due, and an open number of
cycles after (R189, log 14). -/
def comeDue (ev : EventId) (s : State) : State :=
  match pendingOf ev s.h with
  | none => s
  | some p =>
    freshDraws { s with h := { s.h with now := max s.h.now (p.since + p.delay) + Config.freeLateness s.env.draws } }

/-! ### The interrupt and diagnostic ports -/

/-- `raiseLine(cause)`: one pulse of the interrupt line (R191). -/
def raiseLine (cause : IrqCause) (s : State) : State :=
  emit (.raiseLine cause) s

/-- `log(message)`: no state (R192). -/
def logMessage (message : LogMessage) (s : State) : State :=
  emit (.log message) s

/-! ### The co-processor port -/

/-- The reply the next call of `executeBlock` gets. -/
def nextBlock (s : State) : BlockReply :=
  drawn s.env.blocks Config.freeBlock s.env.draws

/-- The reply the next call of `finishPass` gets. -/
def nextPass (s : State) : PassReply :=
  drawn s.env.passes Config.freePass s.env.draws

/-- The reply the next call of `executeQueuedProgram` gets. -/
def nextQueued (s : State) : QueuedReply :=
  drawn s.env.queued Config.freeQueued s.env.draws

/-- The cycles a block takes: a block that leaves the co-processor busy takes at least one (R193, D44). -/
def blockCost (b : BlockReply) : Nat :=
  if b.clearBusy then b.cost else max 1 b.cost

/-- `executeBlock()` (R193). -/
def executeBlock (s : State) : State :=
  let b := nextBlock s
  emit .executeBlock { s with
    env := { s.env with blocks := s.env.blocks.tail, draws := drawsAfter s.env.blocks s.env.draws }
    t := applyStatusFx b.status s.t
    p := { busy := s.p.busy && !b.clearBusy
           stopped := s.p.stopped || b.setStopped
           nextBlockCost := b.nextBlockCost
           elapsedCycles := s.p.elapsedCycles + blockCost b } }

/-- `finishPass()` (R194). -/
def finishPass (s : State) : State :=
  let b := nextPass s
  emit .finishPass { s with
    env := { s.env with passes := s.env.passes.tail, draws := drawsAfter s.env.passes s.env.draws }
    p := { busy := false
           stopped := b.stopped.getD s.p.stopped
           nextBlockCost := b.nextBlockCost.getD s.p.nextBlockCost
           elapsedCycles := s.p.elapsedCycles + b.cost } }

/-- `executeQueuedProgram()`: the request is no longer pending, the program may start, then the effects (R195, log 17). -/
def executeQueuedProgram (s : State) : State :=
  let q := nextQueued s
  applyEffects q.fx (emit .executeQueuedProgram { s with
    env := { s.env with queued := s.env.queued.tail, draws := drawsAfter s.env.queued s.env.draws }
    v := { s.v with queuedProgramPending := false }
    p := { s.p with busy := s.p.busy || q.startsProgram } })

end Sys2Proof.Machine
end

