-- ==== Sys2Proof/Machine/Kickoff.lean ====
section
/-! DEFINITION. Kickoff (40_host_kickoff.md R113 to R121). -/

namespace Sys2Proof.Machine

/-- What Kickoff makes of the runtime state (R114 to R118): the test of the count comes first. -/
def kickoffRuntime (r : Regs) (v : Runtime) : Runtime :=
  if r.qwc = 0 then { v with mode := .chain, done := false, inProgress := false }
  else if r.chcr.selectsChain then { v with mode := .chain, done := impliedTerminal r.chcr, inProgress := true }
  else { v with mode := .normalFromMemory, done := true, inProgress := true }

/-- The part of Kickoff before it schedules (R114 to R119). -/
def kickoffPrepare (s : State) : State :=
  setStallFlag false { s with
    v := kickoffRuntime s.r s.v
    t := { s.t with queueDepth := depthOf s.r.qwc }
    h := { s.h with cycles := 0 } }

/-- The run is opened, and the first driver step scheduled unless a stall sub-state is active (R120). -/
def openRun (s : State) : State :=
  if anyStallSub s.t then kickoffPrepare s
  else scheduleEvent .driver Config.tagFetchLatency (kickoffPrepare s)

/-- Kickoff: it opens a run whose addresses are on quadword boundaries; another run has no meaning (20_memory.md R87,
log 7). -/
def kickoff (s : State) : Res State :=
  if s.r.onQuadwords then .next (openRun s) else .refused (.misalignedRun s.r.madr s.r.tadr)

/-- KICKOFF. -/
def execKickoff (s : State) : Res State :=
  kickoff s

end Sys2Proof.Machine
end

