-- ==== Sys2Proof/Machine/HostRegs.lean ====
section
/-! DEFINITION. The host's register accesses (40_host_kickoff.md R110 to R112). -/

namespace Sys2Proof.Machine

/-- The value of a register goes to the host; no state changes (R110). -/
def hostRead (reg : Reg) (s : State) : State :=
  emit (.regRead reg (readReg s.r reg)) s

/-- A register takes a value; nothing else changes (R111). -/
def hostWrite (reg : Reg) (v : Word) (s : State) : State :=
  { s with r := writeReg s.r v reg }

/-- The control register takes a value, and a run bit that goes from clear to set kicks off in the same step (R112, R113). -/
def hostWriteChcr (v : Word) (s : State) : Res State :=
  if !s.r.chcr.run && v.getLsbD 8 then kickoff (hostWrite .chcr v s) else .next (hostWrite .chcr v s)

/-- RD_CHCR. -/
def execRdChcr (s : State) : Res State := .next (hostRead .chcr s)
/-- RD_MADR. -/
def execRdMadr (s : State) : Res State := .next (hostRead .madr s)
/-- RD_QWC. -/
def execRdQwc (s : State) : Res State := .next (hostRead .qwc s)
/-- RD_TADR. -/
def execRdTadr (s : State) : Res State := .next (hostRead .tadr s)
/-- RD_ASR0. -/
def execRdAsr0 (s : State) : Res State := .next (hostRead .asr0 s)
/-- RD_ASR1. -/
def execRdAsr1 (s : State) : Res State := .next (hostRead .asr1 s)

/-- WR_CHCR. -/
def execWrChcr (v : Word) (s : State) : Res State := hostWriteChcr v s
/-- WR_MADR. -/
def execWrMadr (v : Word) (s : State) : Res State := .next (hostWrite .madr v s)
/-- WR_QWC. -/
def execWrQwc (v : Word) (s : State) : Res State := .next (hostWrite .qwc v s)
/-- WR_TADR. -/
def execWrTadr (v : Word) (s : State) : Res State := .next (hostWrite .tadr v s)
/-- WR_ASR0. -/
def execWrAsr0 (v : Word) (s : State) : Res State := .next (hostWrite .asr0 v s)
/-- WR_ASR1. -/
def execWrAsr1 (v : Word) (s : State) : Res State := .next (hostWrite .asr1 v s)

end Sys2Proof.Machine
end

