-- ==== Sys2Proof/Machine/ChainTags.lean ====
section
/-! DEFINITION. The eight tag kinds: chain-advance (42_chain_tags.md R147 to R157), and the processing of a fetched tag
(41_chain_walker.md R134 to R145), which is what a tag does as an operation (log 9). -/

namespace Sys2Proof.Machine

/-! ### Chain-advance: the registers after, and whether the chain ends. On entry `R.tadr` is the tag's address, `R.madr`
its address field, `R.qwc` its count (R148). -/

/-- REFE (R149). -/
def advanceRefe (r : Regs) : Regs × Bool :=
  ({ r with tadr := afterTag r }, true)

/-- CNT (R150). -/
def advanceCnt (r : Regs) : Regs × Bool :=
  ({ r with madr := afterTag r, tadr := afterTagData r }, false)

/-- NEXT (R151). -/
def advanceNext (r : Regs) : Regs × Bool :=
  ({ r with madr := afterTag r, tadr := r.madr }, false)

/-- REF (R152). -/
def advanceRef (r : Regs) : Regs × Bool :=
  ({ r with tadr := afterTag r }, false)

/-- REFS, as REF (R153). -/
def advanceRefs (r : Regs) : Regs × Bool :=
  ({ r with tadr := afterTag r }, false)

/-- CALL pushes the address of the tag after its data; a third push ends the chain (R154). -/
def advanceCall (r : Regs) : Regs × Bool :=
  match r.chcr.asp.toNat with
  | 0 => ({ r with madr := afterTag r, asr0 := afterTagData r, chcr := { r.chcr with asp := 1 }, tadr := r.madr }, false)
  | 1 => ({ r with madr := afterTag r, asr1 := afterTagData r, chcr := { r.chcr with asp := 2 }, tadr := r.madr }, false)
  | _ => ({ r with madr := afterTag r }, true)

/-- RET pops into `R.tadr` and zeroes the popped entry; with nothing saved, or the invalid pointer, it ends the chain
(R155). -/
def advanceRet (r : Regs) : Regs × Bool :=
  match r.chcr.asp.toNat with
  | 2 => ({ r with madr := afterTag r, tadr := r.asr1, asr1 := 0, chcr := { r.chcr with asp := 1 } }, false)
  | 1 => ({ r with madr := afterTag r, tadr := r.asr0, asr0 := 0, chcr := { r.chcr with asp := 0 } }, false)
  | _ => ({ r with madr := afterTag r }, true)

/-- END (R156). -/
def advanceEnd (r : Regs) : Regs × Bool :=
  ({ r with madr := afterTag r }, true)

/-- The registers after chain-advance, and the end-of-chain answer, by kind (R157). -/
def advance (k : TagKind) (r : Regs) : Regs × Bool :=
  match k with
  | .refe => advanceRefe r
  | .cnt => advanceCnt r
  | .next => advanceNext r
  | .ref => advanceRef r
  | .refs => advanceRefs r
  | .call => advanceCall r
  | .ret => advanceRet r
  | .endTag => advanceEnd r

/-- The name of a stack fault, where the kind meets one (60_exceptions.md R198, R203). -/
def stackAnomaly (k : TagKind) (asp : BitVec 2) : Option Anomaly :=
  match k with
  | .call => if 2 ≤ asp.toNat then some .stackOverflow else none
  | .ret => if asp.toNat = 0 ∨ asp.toNat = 3 then some .stackUnderflow else none
  | _ => none

/-- Record a stack fault in the trace; nothing else records it. -/
def noteStack (k : TagKind) (s : State) : State :=
  match stackAnomaly k s.r.chcr.asp with
  | some a => emit (.anomaly a) s
  | none => s

/-- `chainAdvance(kind)` (45_interfaces.md R187): the answer and the state after. -/
def chainAdvance (k : TagKind) (s : State) : Bool × State :=
  ((advance k s.r).2,
    emit (.chainAdvance k (advance k s.r).2) { noteStack k s with r := (advance k s.r).1 })

/-! ### The processing of a fetched tag -/

/-- Steps 2 to 4 of the tag fetch: the count, the upper half-word, the address, one cycle (R134, R135, R136). -/
def loadTag (k : TagKind) (t : TagFields) (s : State) : State :=
  { s with
    r := { s.r with
      qwc := t.qwc.zeroExtend 32
      chcr := { s.r.chcr with lastTag := tagUpperHalf k t }
      madr := t.addr }
    h := { s.h with cycles := s.h.cycles + Config.tagFetchCost }
    v := { s.v with inProgress := false } }

/-- A fresh tag sets the resume offset before the feed, whatever its outcome (R140, 70_reset_and_hazards.md R234). -/
def armResume (s : State) : State :=
  if s.v.resumeOffset.enabled then s
  else { s with v := { s.v with resumeOffset := ⟨true, Config.freshTagSkip⟩ } }

/-- Steps 7 to 10: the tag is done with (R142 to R145). -/
def completeTag (k : TagKind) (t : TagFields) (s : State) : State :=
  let cleared := { s with v := { s.v with resumeOffset := ⟨false, 0⟩ } }
  let c := chainAdvance k cleared
  { c.2 with v := { c.2.v with
      done := c.1 || (t.irq && c.2.r.chcr.tie)
      inProgress := c.2.v.inProgress || c.2.r.qwc != 0 } }

/-- Step 6: the feed was not consumed, so the tag is to be fetched again (R141). -/
def refuseTagData (delivered : Nat) (s : State) : State :=
  { s with
    v := { s.v with resumeOffset := ⟨true, delivered⟩, inProgress := false }
    r := { s.r with qwc := 0 } }

/-- Steps 5 to 10 with tag transfer on: the upper half is fed (R138 to R145). -/
def feedTagData (k : TagKind) (t : TagFields) (s : State) : State :=
  let off := tagDataOffset s.v
  let u := unpack ((maskedTag t).drop off) (4 - off) true (armResume s)
  let delivered := off + takenOf u.1 (4 - off)
  let charged := { u.2 with h := { u.2.h with cycles := u.2.h.cycles + xferCost u.2.platform delivered } }
  if u.1.consumed then completeTag k t charged else refuseTagData delivered charged

/-- What a fetched tag does (R134 to R146). -/
def consumeTag (k : TagKind) (t : TagFields) (s : State) : State :=
  if s.r.chcr.tte then feedTagData k t (loadTag k t s) else completeTag k t (loadTag k t s)

/-- The processing of a fetched tag; one whose address field is no multiple of 16 has no meaning, whatever its kind
(30_encoding.md R99, 20_memory.md R87, log 7). -/
def processTag (k : TagKind) (t : TagFields) (s : State) : Res State :=
  if aligned t.addr then .next (consumeTag k t s) else .refused (.misalignedField t.addr)

/-- REFE. -/
def execRefe (t : TagFields) (s : State) : Res State := processTag .refe t s
/-- CNT. -/
def execCnt (t : TagFields) (s : State) : Res State := processTag .cnt t s
/-- NEXT. -/
def execNext (t : TagFields) (s : State) : Res State := processTag .next t s
/-- REF. -/
def execRef (t : TagFields) (s : State) : Res State := processTag .ref t s
/-- REFS. -/
def execRefs (t : TagFields) (s : State) : Res State := processTag .refs t s
/-- CALL. -/
def execCall (t : TagFields) (s : State) : Res State := processTag .call t s
/-- RET. -/
def execRet (t : TagFields) (s : State) : Res State := processTag .ret t s
/-- END. -/
def execEnd (t : TagFields) (s : State) : Res State := processTag .endTag t s

/-- The meaning of a tag, by kind. -/
def execTag (k : TagKind) (t : TagFields) (s : State) : Res State :=
  match k with
  | .refe => execRefe t s
  | .cnt => execCnt t s
  | .next => execNext t s
  | .ref => execRef t s
  | .refs => execRefs t s
  | .call => execCall t s
  | .ret => execRet t s
  | .endTag => execEnd t s

end Sys2Proof.Machine
end

