-- ==== Sys2Proof/Machine/Ports.lean ====
section
/-! DEFINITION. The port calls as operations of their own (45_interfaces.md R183 to R195); a step makes them through the
operations of Ops.lean and ChainTags.lean. -/

namespace Sys2Proof.Machine

/-- translate. -/
def execTranslate (a : Word) (s : State) : Res State := .next (translate a s).2

/-- fetchTag; a misaligned address has no meaning (20_memory.md R87). -/
def execFetchTag (a : Word) (s : State) : Res State :=
  if !aligned a then .refused (.misalignedTag a) else .next (fetchTag a s).2

/-- unpack. -/
def execUnpack (words : List Word) (count : Nat) (isTagData : Bool) (s : State) : Res State :=
  .next (unpack words count isTagData s).2

/-- chainAdvance. -/
def execChainAdvance (k : TagKind) (s : State) : Res State := .next (chainAdvance k s).2

/-- scheduleEvent. -/
def execScheduleEvent (ev : EventId) (delay : Nat) (s : State) : Res State := .next (scheduleEvent ev delay s)

/-- setStallFlag. -/
def execSetStallFlag (b : Bool) (s : State) : Res State := .next (setStallFlag b s)

/-- raiseLine. -/
def execRaiseLine (cause : IrqCause) (s : State) : Res State := .next (raiseLine cause s)

/-- log. -/
def execLog (message : LogMessage) (s : State) : Res State := .next (logMessage message s)

/-- executeBlock. -/
def execExecuteBlock (s : State) : Res State := .next (executeBlock s)

/-- finishPass. -/
def execFinishPass (s : State) : Res State := .next (finishPass s)

/-- executeQueuedProgram. -/
def execExecuteQueuedProgram (s : State) : Res State := .next (executeQueuedProgram s)

end Sys2Proof.Machine
end

