-- ==== Sys2Proof/Machine/External.lean ====
section
/-! DEFINITION. The host's other moves (40_host_kickoff.md R122 to R126) and reset (70_reset_and_hazards.md R218). -/

namespace Sys2Proof.Machine

/-- The run bit is cleared and nothing else (R122). -/
def clearRun (s : State) : State :=
  { s with r := { s.r with chcr := { s.r.chcr with run := false } } }

/-- RUN_CLEAR. -/
def execRunClear (s : State) : Res State := .next (clearRun s)

/-- An external agent schedules a driver step where none is pending; where one is, the move is not there to make and
nothing happens (R123, log 19). -/
def redrive (delay : Nat) (s : State) : State :=
  if s.h.pendDriver.isNone then scheduleEvent .driver delay s else s

/-- REDRIVE. -/
def execRedrive (delay : Nat) (s : State) : Res State := .next (redrive delay s)

/-- The enclosing controller clears its enable flag (R124). -/
def forceStop (s : State) : State :=
  { s with g := { s.g with dmaEnable := false } }

/-- FORCE_STOP. -/
def execForceStop (s : State) : Res State := .next (forceStop s)

/-- STATUS_WRITE (R125). -/
def execStatusWrite (w : StatusWrite) (s : State) : Res State := .next (applyStatusWrite w s)

/-- MEM_WRITE (R126). -/
def execMemWrite (a : Word) (bytes : List Byte) (s : State) : Res State :=
  .next { s with mem := storeBytes s.mem a bytes }

/-- A free address: its upper 28 bits are free, and it is a multiple of 16 (10_state.md R37: only a host write breaks the
invariant). -/
def freeAddress (n k : Nat) : Word :=
  ((Config.freeRegister n k).extractLsb' 4 28 ++ 0#4 : BitVec (28 + 4))

/-- The registers after a reset: the ones without a reset value hold free values (10_state.md R73, R74, log 5). -/
def freeRegs (n : Nat) : Regs where
  chcr := Chcr.reset
  madr := freeAddress n 0
  qwc := Config.freeRegister n 1
  tadr := freeAddress n 2
  asr0 := freeAddress n 3
  asr1 := freeAddress n 4

/-- Every field of the block in its reset state; memory, the parameters and the world outside are no part of it
(70_reset_and_hazards.md R218). -/
def resetBlock (s : State) : State :=
  { freshDraws s with
    r := freeRegs s.env.draws
    v := Runtime.reset
    t := Status.reset
    p := Coproc.reset
    g := Globals.reset
    h := Hidden.reset }

/-- RESET. -/
def execReset (s : State) : Res State := .next (resetBlock s)

end Sys2Proof.Machine
end

