-- ==== Sys2Proof/Machine/ChainWalker.lean ====
section
/-! DEFINITION. The Chain Walker: element transfer and tag fetch (41_chain_walker.md). -/

namespace Sys2Proof.Machine

/-! ### Element transfer (R127 to R131) -/

/-- The registers and the resume offset are brought up to date with what was consumed: `total` words of the element
have been delivered, counted from `R.madr` (R131). -/
def account (total : Nat) (s : State) : State :=
  let q := min s.r.qwc.toNat (total / 4)
  { s with
    r := { s.r with madr := addrPlus s.r.madr (16 * q), qwc := BitVec.ofNat 32 (s.r.qwc.toNat - q) }
    v := { s.v with resumeOffset := if total % 4 = 0 then ⟨false, 0⟩ else ⟨true, total % 4⟩ }
    h := { s.h with cycles := s.h.cycles + xferCost s.platform total } }

/-- The element's target does not translate: the element is dropped in silence (R129, 60_exceptions.md R199). -/
def discardElement (s : State) : State :=
  emit (.anomaly .unmappedElement)
    { s with v := { s.v with cmd := 0, tagSize := 0 }, r := { s.r with qwc := 0 } }

/-- The words of the element go to the payload decoder, and what it took is accounted for (R130). -/
def feedElement (s : State) : Bool × State :=
  let off := elemOffset s.v
  let count := elemCount s.r s.v
  let u := unpack (readWords s (addrPlus s.r.madr (4 * off)) count) count false (freshDraws s)
  (u.1.consumed, account (off + takenOf u.1 count) u.2)

/-- Element transfer: what it reports, and the state after (R127). -/
def elem (s : State) : Res (Bool × State) :=
  if s.r.qwc = 0 then .next (true, { s with v := { s.v with inProgress := false } })
  else if !aligned s.r.madr then .refused (.misalignedElement s.r.madr)
  else
    let x := translate s.r.madr s
    if !x.1 then .next (true, discardElement x.2) else .next (feedElement x.2)

/-- ELEM. -/
def execElem (s : State) : Res State :=
  andThen (elem s) fun x => .next (emit (.elemReport x.1) x.2)

/-! ### Tag fetch (R132 to R146) -/

/-- What follows the reply of the fetch: a stall leaves the block as it was, a tag is decoded and does what its kind
does (R133). -/
def onFetched (x : FetchReply × State) : Res State :=
  match x.1 with
  | .stall => .next x.2
  | .tag q => execTag (tagKindOf q) (tagFieldsOf q) x.2

/-- Tag fetch. -/
def tagFetch (s : State) : Res State :=
  if !aligned s.r.tadr then .refused (.misalignedTag s.r.tadr)
  else onFetched (fetchTag s.r.tadr s)

/-- TAGFETCH. -/
def execTagFetch (s : State) : Res State :=
  tagFetch s

end Sys2Proof.Machine
end

