-- ==== Sys2Proof/Machine/Driver.lean ====
section
/-! DEFINITION. The Completion Driver: its eleven actions in order, the stall arbiter and the interrupt coalescer
(44_completion_driver.md). -/

namespace Sys2Proof.Machine

/-! ### The actions -/

/-- End of a step that scheduled (00_scope.md R12). -/
def endAfter (ev : EventId) (delay : Nat) (s : State) : State :=
  emit (.stepEnd (.rescheduleAfter delay)) (scheduleEvent ev delay s)

/-- End of a step that scheduled nothing, the run open (R12). -/
def endIdle (s : State) : State :=
  emit (.stepEnd .idle) s

/-- Steps 1 and 2: fresh accounting, the queue depth, and a log where the run bit is clear (R168, R169). -/
def openStep (s : State) : State :=
  let fresh := { s with
    h := { s.h with cycles := 0 }
    t := { s.t with queueDepth := depthOf s.r.qwc } }
  if fresh.r.chcr.run then fresh
  else emit (.anomaly .runBitClear) (logMessage .runBitClear fresh)

/-- Step 3: the channel goes into the synchronizer's hands (R170). -/
def deferToSync (s : State) : State :=
  emit (.stepEnd (.rescheduleAfter s.platform.syncDeferDelay))
    (setStallFlag true (scheduleEvent .sync s.platform.syncDeferDelay s))

/-- Step 4: log only (R171). -/
def notePeerPath (s : State) : State :=
  if s.t.waitPeerPath then emit (.anomaly .peerPathWait) (logMessage .waitingOnPeerPath s) else s

/-- Step 5, the interrupt: one pulse, the flags, one request fewer (R172). -/
def signalIrq (s : State) : State :=
  let raised := raiseLine .irqStall s
  { raised with
    t := signalledStatus s.platform s.v s.t
    v := { s.v with pendingIrqCount := s.v.pendingIrqCount - 1 } }

/-- Step 5, the suspension: marked stalled, nothing scheduled (R172). -/
def suspend (s : State) : State :=
  endIdle (setStallFlag true { s with t := { s.t with decodePhase := .decoding } })

/-- Steps 6 and 7 (R173, R174). -/
def clearStall (s : State) : State :=
  { s with
    v := { s.v with stall := { s.v.stall with enabled := false } }
    t := { s.t with decodePhase := decodePhaseFn s.v.cmd s.v.done s.r.qwc s.t.decodePhase } }

/-- The end of steps 8 and 9: the queue depth, and the next driver step after the accumulated cost (R175, R176). -/
def reschedule (s : State) : State :=
  endAfter .driver s.h.cycles { s with t := { s.t with queueDepth := depthOf s.r.qwc } }

/-- The queued program, if any (R178). -/
def runQueued (s : State) : State :=
  if s.v.queuedProgramPending then executeQueuedProgram s else s

/-- The run bit, the stall and the resume flag are cleared (R178). -/
def closeRun (s : State) : State :=
  { s with
    r := { s.r with chcr := { s.r.chcr with run := false } }
    v := { s.v with
      stall := { s.v.stall with enabled := false }
      resumeOffset := { s.v.resumeOffset with enabled := false } } }

/-- The accounting and the queue depth are zeroed, the line raised, the channel marked not stalled (R178). -/
def signalCompletion (s : State) : State :=
  let raised := setStallFlag false (raiseLine .completion { s with h := { s.h with cycles := 0 } })
  { raised with t := { raised.t with queueDepth := 0 } }

/-- Step 11, finalize: the queued program runs after the run is closed and before the line is raised (R178). -/
def finalize (s : State) : State :=
  signalCompletion (runQueued (closeRun s))

/-- FINALIZE. -/
def execFinalize (s : State) : Res State :=
  .next (finalize s)

/-! ### The step -/

/-- Steps 8 to 11 (R175 to R178). Step 10 is unreachable here, its condition having been cleared by step 6; it is kept
as the spec keeps it (R177). -/
def progress (s : State) : Res State :=
  if s.v.inProgress then andThen (elem s) fun x => .next (reschedule x.2)
  else if !s.v.done then
    if !s.g.dmaEnable || s.t.stopped then .next (endIdle s)
    else andThen (tagFetch s) fun x => .next (reschedule x)
  else if s.v.stall.enabled then .next (endAfter .driver 0 s)
  else .next (emit (.stepEnd .done) (finalize s))

/-- Steps 5 to 11 (R172 to R178). -/
def coalesce (s : State) : Res State :=
  if irqDue s.v then
    let signalled := signalIrq s
    if suspends signalled then .next (suspend signalled) else progress (clearStall signalled)
  else progress (clearStall s)

/-- The eleven actions, in their order (R179). -/
def runActions (s : State) : Res State :=
  let opened := openStep s
  if opened.v.waitingForCoprocessor then .next (deferToSync opened)
  else coalesce (notePeerPath opened)

/-- DRIVERSTEP's body. A run whose addresses are not on quadword boundaries has no meaning (20_memory.md R87, log 7). -/
def driverStep (s : State) : Res State :=
  if s.r.onQuadwords then runActions s else .refused (.misalignedRun s.r.madr s.r.tadr)

/-- DRIVERSTEP: the delivery of `EV_DRIVER` (R167, 45_interfaces.md R189). -/
def execDriverStep (s : State) : Res State :=
  driverStep (deliver .driver s)

end Sys2Proof.Machine
end

