-- ==== Sys2Proof/Machine/Synchronizer.lean ====
section
/-! DEFINITION. The VU Synchronizer (43_vu_synchronizer.md). -/

namespace Sys2Proof.Machine

/-- The catch-up loop under fuel (R160): block after block while the co-processor is busy and the pacing allows it. -/
def catchUp : Nat → State → State
  | 0, s => s
  | n + 1, s => if mustCatchUp s then catchUp n (executeBlock s) else s

/-- The loop's fuel: enough for every listed reply and for the whole gap, which bounds a paced loop (45_interfaces.md R193,
D44), and an unknown number of blocks more. A loop that outlasts it counts as never ending (log 15). -/
def catchUpRounds (s : State) : Nat :=
  Config.catchUpBound + s.env.blocks.length + (s.h.now - s.p.elapsedCycles) + 1

/-- The loop does not end, so the step never completes (93_implementation_defined.md U8, `stuck`): nothing after the loop
happens. -/
def hang (s : State) : State :=
  { s with hung := true }

/-- Step 2: look again after the fixed delay (R163). -/
def recheck (s : State) : State :=
  setStallFlag true (scheduleEvent .sync Config.syncRecheckDelay s)

/-- Step 3: one finish pass, its cost scaled (R164). -/
def finishAndRecheck (s : State) : State :=
  let passed := finishPass s
  setStallFlag true
    (scheduleEvent .sync ((passed.p.elapsedCycles - s.p.elapsedCycles) * finishBias s.platform) passed)

/-- Step 4: the co-processor is idle; a recorded wait is cleared and the driver is re-invoked within the same step where
nothing is pending, the channel runs, and no stall sub-state is active (R165). -/
def releaseWait (s : State) : Res State :=
  let released := { s with t := { s.t with waitPeer := false } }
  if released.v.waitingForCoprocessor then
    let cleared := { released with v := { released.v with waitingForCoprocessor := false } }
    if mayReinvoke cleared then driverStep cleared else .next cleared
  else .next released

/-- After the loop (R163 to R165). Step 3 is unreachable; it is kept as the spec keeps it (R164). -/
def afterCatchUp (s : State) : Res State :=
  if s.p.stopped || s.p.busy then .next (recheck s)
  else if s.p.busy then .next (finishAndRecheck s)
  else releaseWait s

/-- SYNCSTEP's body (R166). -/
def syncStep (s : State) : Res State :=
  let caughtUp := catchUp (catchUpRounds s) s
  if mustCatchUp caughtUp then .next (hang caughtUp) else afterCatchUp caughtUp

/-- SYNCSTEP: the delivery of `EV_SYNC` (R158, 45_interfaces.md R189). -/
def execSyncStep (s : State) : Res State :=
  syncStep (deliver .sync s)

end Sys2Proof.Machine
end

