-- ==== Sys2Proof/Machine/Pseudo.lean ====
section
/-! DEFINITION. The notation's pseudo-operations, each its expansion (30_encoding.md R109, log 18). -/

namespace Sys2Proof.Machine

/-- `WR MADR, madr; WR QWC, n; WR CHCR, 0x00000101`. -/
def startNormal (madr n : Word) (s : State) : Res State :=
  hostWriteChcr 0x00000101 (hostWrite .qwc n (hostWrite .madr madr s))

/-- START_NORMAL. -/
def execStartNormal (madr n : Word) (s : State) : Res State := startNormal madr n s

/-- The value START_CHAIN writes to the control register. -/
def startChainValue (tte tie : Bool) : Word :=
  match tte, tie with
  | false, false => 0x00000105
  | true, false => 0x00000145
  | false, true => 0x00000185
  | true, true => 0x000001C5

/-- `WR TADR, tadr; WR QWC, 0; WR CHCR, ..`. -/
def startChain (tadr : Word) (tte tie : Bool) (s : State) : Res State :=
  hostWriteChcr (startChainValue tte tie) (hostWrite .qwc 0 (hostWrite .tadr tadr s))

/-- START_CHAIN. -/
def execStartChain (tadr : Word) (tte tie : Bool) (s : State) : Res State := startChain tadr tte tie s

/-- The acknowledgment of an interrupt stall: `SET T.irqStalled = false; SET T.interruptFlag = false; REDRIVE`
(also 60_exceptions.md R207). -/
def acknowledge (delay : Nat) (s : State) : State :=
  redrive delay
    (applyStatusWrite { status := { interruptFlag := some false } }
      (applyStatusWrite { status := { irqStalled := some false } } s))

/-- ACK. -/
def execAck (delay : Nat) (s : State) : Res State := .next (acknowledge delay s)

/-- FORCE_STOP of the notation: `SET G.dmaEnable = false`. -/
def execForceStopPseudo (s : State) : Res State := .next (applyStatusWrite { dmaEnable := some false } s)

/-- The handler of an event, on its delivery. -/
def execEvent (ev : EventId) (s : State) : Res State :=
  match ev with
  | .driver => execDriverStep s
  | .sync => execSyncStep s

/-- RUN: one pending event is delivered, and RUN stands first among the inputs again, until none is pending. -/
def execRun (s : State) : Res State :=
  match pickEvent s with
  | none => .next s
  | some ev => execEvent ev (comeDue ev { s with inputs := .move .run :: s.inputs })

end Sys2Proof.Machine
end

