-- ==== Sys2Proof/Machine/Dispatch.lean ====
section
/-! DEFINITION. exec: one arm per constructor of Instr, each one direct call of its meaning. -/

namespace Sys2Proof.Machine

def exec (i : Instr) (s : State) : Host.Outcome State Fault Refusal :=
  match i with
  | .refe t => Sys2Proof.Machine.execRefe t s
  | .cnt t => Sys2Proof.Machine.execCnt t s
  | .next t => Sys2Proof.Machine.execNext t s
  | .ref t => Sys2Proof.Machine.execRef t s
  | .refs t => Sys2Proof.Machine.execRefs t s
  | .call t => Sys2Proof.Machine.execCall t s
  | .ret t => Sys2Proof.Machine.execRet t s
  | .endTag t => Sys2Proof.Machine.execEnd t s
  | .rdChcr => Sys2Proof.Machine.execRdChcr s
  | .wrChcr value => Sys2Proof.Machine.execWrChcr value s
  | .rdMadr => Sys2Proof.Machine.execRdMadr s
  | .wrMadr value => Sys2Proof.Machine.execWrMadr value s
  | .rdQwc => Sys2Proof.Machine.execRdQwc s
  | .wrQwc value => Sys2Proof.Machine.execWrQwc value s
  | .rdTadr => Sys2Proof.Machine.execRdTadr s
  | .wrTadr value => Sys2Proof.Machine.execWrTadr value s
  | .rdAsr0 => Sys2Proof.Machine.execRdAsr0 s
  | .wrAsr0 value => Sys2Proof.Machine.execWrAsr0 value s
  | .rdAsr1 => Sys2Proof.Machine.execRdAsr1 s
  | .wrAsr1 value => Sys2Proof.Machine.execWrAsr1 value s
  | .driverStep => Sys2Proof.Machine.execDriverStep s
  | .syncStep => Sys2Proof.Machine.execSyncStep s
  | .kickoff => Sys2Proof.Machine.execKickoff s
  | .elem => Sys2Proof.Machine.execElem s
  | .tagFetch => Sys2Proof.Machine.execTagFetch s
  | .finalize => Sys2Proof.Machine.execFinalize s
  | .runClear => Sys2Proof.Machine.execRunClear s
  | .redrive delay => Sys2Proof.Machine.execRedrive delay s
  | .forceStop => Sys2Proof.Machine.execForceStop s
  | .statusWrite w => Sys2Proof.Machine.execStatusWrite w s
  | .memWrite addr bytes => Sys2Proof.Machine.execMemWrite addr bytes s
  | .reset => Sys2Proof.Machine.execReset s
  | .translate addr => Sys2Proof.Machine.execTranslate addr s
  | .fetchTag addr => Sys2Proof.Machine.execFetchTag addr s
  | .unpack words count isTagData => Sys2Proof.Machine.execUnpack words count isTagData s
  | .chainAdvance kind => Sys2Proof.Machine.execChainAdvance kind s
  | .scheduleEvent ev delay => Sys2Proof.Machine.execScheduleEvent ev delay s
  | .setStallFlag b => Sys2Proof.Machine.execSetStallFlag b s
  | .raiseLine cause => Sys2Proof.Machine.execRaiseLine cause s
  | .log message => Sys2Proof.Machine.execLog message s
  | .executeBlock => Sys2Proof.Machine.execExecuteBlock s
  | .finishPass => Sys2Proof.Machine.execFinishPass s
  | .executeQueuedProgram => Sys2Proof.Machine.execExecuteQueuedProgram s
  | .startNormal madr n => Sys2Proof.Machine.execStartNormal madr n s
  | .startChain tadr tte tie => Sys2Proof.Machine.execStartChain tadr tte tie s
  | .ack delay => Sys2Proof.Machine.execAck delay s
  | .forceStopPseudo => Sys2Proof.Machine.execForceStopPseudo s
  | .run => Sys2Proof.Machine.execRun s

end Sys2Proof.Machine
end

