-- ==== Sys2Proof/Machine/Inputs.lean ====
section
/-! DEFINITION. How a step takes up a move of the world outside: the frame at a port is decoded, a host move is checked,
and with no move left the scheduler delivers on its own (00_scope.md R10, R11; 45_interfaces.md R189; log 1, log 14). And
how an opcode-table word is placed where the next step runs it (log 11). -/

namespace Sys2Proof.Machine

/-- A frame at an input port: decoded, then run. -/
def takeFrame (f : Frame) (s : State) : Res State :=
  match decode f with
  | .ok i => exec i s
  | .error e => .refused (.undecodable e)

/-- A host move: run where its operands are in their bounds. -/
def takeMove (m : HostMove) (s : State) : Res State :=
  if m.instr.wf then exec m.instr s else .refused .illFormed

/-- The clock advances (10_state.md R70). -/
def advanceClock (n : Nat) (s : State) : State :=
  { s with h := { s.h with now := s.h.now + n } }

/-- One move. -/
def takeInput (x : Input) (s : State) : Res State :=
  match x with
  | .read bytes => takeFrame ⟨.regRead, bytes⟩ s
  | .write bytes => takeFrame ⟨.regWrite, bytes⟩ s
  | .event bytes => takeFrame ⟨.event, bytes⟩ s
  | .move m => takeMove m s
  | .wait n => .next (advanceClock n s)

/-- With no move left: a pending event is delivered, and where none is, the machine is idle and stays as it is
(70_reset_and_hazards.md R218, R225). -/
def selfDeliver (s : State) : Res State :=
  match pickEvent s with
  | none => .next s
  | some ev => exec ev.instr (comeDue ev s)

/-! ### Placing a word of the opcode table -/

/-- The input item of a frame at a port; a tag arrives at none. -/
def portInput (f : Frame) : Option Input :=
  match f.fmt with
  | .tag => none
  | .regRead => some (.read f.bytes)
  | .regWrite => some (.write f.bytes)
  | .event => some (.event f.bytes)

/-- The quadword boundary at or below an address. -/
def quadBase (a : Word) : Word :=
  BitVec.ofNat 32 (a.toNat / 16 * 16)

/-- A tag in memory at `R.tadr`, mapped and not stalling, the address registers on quadword boundaries, and a driver step
about to be delivered to a channel with nothing but that tag to fetch. -/
def placeTag (bytes : List Byte) (s : State) : State :=
  let a := quadBase s.r.tadr
  { s with
    mem := storeBytes s.mem a bytes
    r := { s.r with tadr := a, madr := quadBase s.r.madr }
    v := { s.v with
      waitingForCoprocessor := false
      inProgress := false
      done := false
      stall := { s.v.stall with enabled := false } }
    t := { s.t with stopped := false }
    g := { s.g with dmaEnable := true }
    h := { s.h with pendDriver := some ⟨0, s.h.now⟩ }
    platform := { s.platform with ranges := ⟨a, Config.tagBytes, true⟩ :: s.platform.ranges }
    env := { s.env with fetchStalls := false :: s.env.fetchStalls }
    inputs := .event [0] :: s.inputs
    hung := false }

/-- A frame where the next step takes it up; no step is under way. -/
def placeFrame (f : Frame) (s : State) : State :=
  match portInput f with
  | some x => { s with inputs := x :: s.inputs, hung := false }
  | none => placeTag f.bytes s

end Sys2Proof.Machine
end

