-- ==== Sys2Proof/Machine/Step.lean ====
section
/-! DEFINITION. One step of the machine: the next move of the world outside, else the scheduler's own delivery; none where a
step under way never completes. -/

namespace Sys2Proof.Machine

/-- One atomic step (00_scope.md R11). A hung machine never steps again (93_implementation_defined.md U8, `stuck`). -/
def step (s : State) : Host.Outcome State Fault Refusal :=
  if s.hung then .next s
  else
    match s.inputs with
    | x :: rest => takeInput x { s with inputs := rest }
    | [] => selfDeliver s

/-- The state whose very next step runs the opcode-table word `w` of `nbits` bits: a tag stands in memory at the tag
pointer, an access or an event at the head of the inputs (log 11). -/
def State.withFetchWord (s : State) (nbits w : Nat) : State :=
  placeFrame (tableFrame nbits w) s

end Sys2Proof.Machine
end

