-- ==== Sys2Proof/Safety.lean ====
section
/-! DEFINITION. What a sound state is, and what a run may do, in the terms the statements use. -/

namespace Sys2Proof.Machine

/-- A registration was made no later than now (45_interfaces.md R189, 10_state.md R70). -/
def notFuture (h : Hidden) (x : Option Pending) : Bool :=
  match x with
  | none => true
  | some p => decide (p.since ≤ h.now)

/-- What every step keeps: memory in its canonical form; the queue depth in 0 to 8 (10_state.md R64); a pending resume
offset within a quadword (R37); registrations in the past. -/
def State.sound (s : State) : Bool :=
  Memory.wf s.mem && decide (s.t.queueDepth ≤ Config.fifoCap) &&
  (!s.v.resumeOffset.enabled || decide (s.v.resumeOffset.wordCount ≤ 4)) &&
  notFuture s.h s.h.pendDriver && notFuture s.h s.h.pendSync

/-- The bits of the control register that only the host writes: the mode and the two enables (10_state.md R30, R31,
R32), and the held bits (R35). -/
def Chcr.hostOnly (c : Chcr) : Bool × Bool × BitVec 2 × Bool × Bool × BitVec 7 :=
  (c.dir, c.held1, c.mod, c.tte, c.tie, c.held9)

/-- The operations by which the host writes the control register whole. -/
def writesChcr : Instr → Bool
  | .wrChcr _ | .startNormal _ _ | .startChain _ _ _ | .reset => true
  | _ => false

/-- How often the interrupt line has been pulsed with a cause (60_exceptions.md R204). -/
def pulses (c : IrqCause) (t : List TraceEvent) : Nat :=
  t.count (.raiseLine c)

/-- How many driver steps the trace records (00_scope.md R12). -/
def driverSteps (t : List TraceEvent) : Nat :=
  t.countP fun e => match e with
    | .stepEnd _ => true
    | _ => false

/-- The clock once the pending event of a slot has come due: what a delivery makes of it (45_interfaces.md R189). -/
def clockAt (h : Hidden) (x : Option Pending) : Nat :=
  match x with
  | none => h.now
  | some p => max h.now (p.since + p.delay)

/-- The parts of the machine outside `R`, `V`, `T`, `P`, `H`, the replies and the trace are the same: the enable flag, memory,
the parameters, the moves to come, and whether a step is under way that never completes. -/
def SameWorld (s t : State) : Prop :=
  t.g = s.g ∧ t.mem = s.mem ∧ t.platform = s.platform ∧ t.inputs = s.inputs ∧ t.hung = s.hung

/-- The addresses the block works on are quadword-aligned, the saved ones among them (10_state.md R37). -/
def Regs.quadAligned (r : Regs) : Bool :=
  aligned r.madr && aligned r.tadr && aligned r.asr0 && aligned r.asr1

/-- The registers a fetched tag loads: its count, its address field, its bits 31 to 16 (41_chain_walker.md R134, R135). -/
def loadedRegs (k : TagKind) (f : TagFields) (r : Regs) : Regs :=
  { r with
    qwc := f.qwc.zeroExtend 32
    madr := f.addr
    chcr := { r.chcr with lastTag := (packTag k f).extractLsb' 16 16 } }

/-- The words a tag-data feed offers (41_chain_walker.md R138 to R140). -/
def tagDataWords (f : TagFields) (v : Runtime) : List Word :=
  [0#32, 0#32, f.data.extractLsb' 0 32, f.data.extractLsb' 32 32].drop (tagDataOffset v)

/-- The offset the payload decoder sees during a tag-data feed: a fresh tag's is armed before it (R140). -/
def armedOffset (v : Runtime) : ResumeOffset :=
  if v.resumeOffset.enabled then v.resumeOffset else ⟨true, 2⟩

/-- The interrupt-stall branch of a driver step suspends the run: an interrupt stall with a request pending, a stall sub-state
active once the step has set its own, and work left (44_completion_driver.md R172). -/
def suspendsOnIrq (s : State) : Bool :=
  irqDue s.v && (s.t.stopped || s.t.irqStalled || s.t.otherStall || !isExempt s.platform s.v.cmd) &&
    (s.r.qwc != 0 || !s.v.done)

/-- What steps 1 to 7 of a driver step that goes on make of the state it is delivered in: the accounting and the queue depth
fresh, what is logged, an interrupt due signalled and its request removed, the stall cleared, the decode phase recomputed
(44_completion_driver.md R168, R169, R171, R172, R173, R174). Steps 8 to 11 act on it. -/
def arbitrated (s : State) : State :=
  { s with
    h := { s.h with cycles := 0, pendDriver := none, now := clockAt s.h s.h.pendDriver }
    v := { s.v with
      stall := { s.v.stall with enabled := false }
      pendingIrqCount := if irqDue s.v then s.v.pendingIrqCount - 1 else s.v.pendingIrqCount }
    t := { s.t with
      queueDepth := min s.r.qwc.toNat 8
      interruptFlag := s.t.interruptFlag || (irqDue s.v && !s.t.errorSub)
      irqStalled := s.t.irqStalled || (irqDue s.v && !isExempt s.platform s.v.cmd)
      decodePhase := if s.v.cmd = 0 then .idle else if s.v.done = true ∧ s.r.qwc = 0#32 then .waiting else s.t.decodePhase }
    trace := (if irqDue s.v then [.raiseLine .irqStall] else []) ++
      (if s.t.waitPeerPath then [.anomaly .peerPathWait, .log .waitingOnPeerPath] else []) ++
      (if s.r.chcr.run then [] else [.anomaly .runBitClear, .log .runBitClear]) ++ s.trace }

/-- The state after `n` blocks of the co-processor's program (45_interfaces.md R193). -/
def afterBlocks : Nat → State → State
  | 0, s => s
  | n + 1, s => executeBlock (afterBlocks n s)

/-- The catch-up loop goes round once more: the co-processor is busy, and with pacing on its lag covers the next block
(43_vu_synchronizer.md R160, R161). -/
def lagsBehind (s : State) : Prop :=
  s.p.busy = true ∧ (s.platform.pacing = true → (s.p.nextBlockCost : Int) ≤ (s.h.now : Int) - (s.p.elapsedCycles : Int))

/-- The catch-up loop runs exactly `n` blocks (R160). -/
def catchesUpIn (n : Nat) (s : State) : Prop :=
  (∀ j < n, lagsBehind (afterBlocks j s)) ∧ ¬ lagsBehind (afterBlocks n s)

/-- The synchronizer's event delivered: its slot is empty and the clock at the cycle it was due (45_interfaces.md R189). -/
def syncDelivered (s : State) : State :=
  { s with h := { s.h with pendSync := none, now := clockAt s.h s.h.pendSync } }

end Sys2Proof.Machine
end

