-- ==== Sys2Proof/Certificates/Slice0/Obligations.lean ====
section
/-! DEFINITION. The statements for the provers. Each docstring names the rules of spec/ it formalises; OBLIGATIONS.json lists
them. The witnesses that meet their hypotheses are in Sys2Proof/Tests/Slice0.lean. -/

open Sys2Proof Sys2Proof.Machine

/-! ### Encodings -/

/-- For every well-formed operation that has an encoding, decoding its frame gives it back, with every operand at every
value (30_encoding.md R97, R98, R101, R105; the frame around an access is the model's, log 12). -/
def Obligations.DecodeInvertsEncode : Prop :=
  ∀ (i : Instr) (f : Frame), i.wf = true → encode i = some f → decode f = .ok i

/-- Every sixteen bytes are a tag of one of the eight kinds, and encoding it gives the same bytes: no bit is dropped
(30_encoding.md R98, R100). -/
def Obligations.EveryTagFrameDecodesAndReencodes : Prop :=
  ∀ bytes : List Byte, bytes.length = 16 →
    ∃ (k : TagKind) (f : TagFields), decode ⟨.tag, bytes⟩ = .ok (k.instr f) ∧ encode (k.instr f) = some ⟨.tag, bytes⟩

/-- Three tags of 95_test_vectors.md 2.1, word by word, decode to the operations they stand for; so do a register-write frame and
an event frame, whose fields are 30_encoding.md R101's and R105's and whose layout in bytes is the model's own (DESIGN CHOICE,
log 12). -/
def Obligations.SampleWordsDecode : Prop :=
  decode ⟨.tag, [0x01, 0x00, 0x00, 0x90, 0x00, 0x00, 0x00, 0x00, 0x00, 0x00, 0x00, 0x00, 0x00, 0x00, 0x00, 0x00]⟩
      = .ok (.cnt { qwc := 1, irq := true }) ∧
  decode ⟨.tag, [0x01, 0x00, 0x00, 0x50, 0x00, 0x20, 0x00, 0x00, 0xA0, 0xA0, 0xA0, 0xA0, 0xA1, 0xA1, 0xA1, 0xA1]⟩
      = .ok (.call { qwc := 1, addr := 0x2000, data := 0xA1A1A1A1A0A0A0A0 }) ∧
  decode ⟨.tag, [0xFF, 0xFF, 0x00, 0xF0, 0xF0, 0xFF, 0xFF, 0xFF, 0x00, 0x00, 0x00, 0x00, 0x00, 0x00, 0x00, 0x00]⟩
      = .ok (.endTag { qwc := 0xFFFF, irq := true, addr := 0xFFFFFFF0 }) ∧
  decode ⟨.regWrite, [0x00, 0x05, 0x01, 0x00, 0x00]⟩ = .ok (.wrChcr 0x00000105) ∧
  decode ⟨.event, [0x01]⟩ = .ok .syncStep

/-- The six offsets select the six registers, for a read and for a write (30_encoding.md R101); any other offset, which R106 leaves
outside the block, is rejected by name. The bytes of a frame (the offset byte, the data bytes lowest first) are the model's own layout
(DESIGN CHOICE, log 12), and so are the rejection (93_implementation_defined.md U19) and the offset it carries (DESIGN CHOICE,
log 25). -/
def Obligations.OffsetSelectsRegisterOrIsRejected : Prop :=
  (∀ (r : Reg) (o : Byte), (r, o) ∈ [(Reg.chcr, 0x00#8), (.madr, 0x10#8), (.qwc, 0x20#8), (.tadr, 0x30#8), (.asr0, 0x40#8), (.asr1, 0x50#8)] →
    decode ⟨.regRead, [o]⟩ = .ok r.readInstr ∧
    ∀ b0 b1 b2 b3 : Byte, decode ⟨.regWrite, [o, b0, b1, b2, b3]⟩ = .ok (r.writeInstr (b3 ++ b2 ++ b1 ++ b0))) ∧
  (∀ o : Byte, o ∉ [0x00#8, 0x10#8, 0x20#8, 0x30#8, 0x40#8, 0x50#8] →
    decode ⟨.regRead, [o]⟩ = .error (.noSuchRegister o) ∧
    ∀ b0 b1 b2 b3 : Byte, decode ⟨.regWrite, [o, b0, b1, b2, b3]⟩ = .error (.noSuchRegister o))

/-! ### The step -/

/-- With a move at the head of the inputs, a step is exec of the operation it decodes to, at the state with that move taken off;
a move of time only advances the clock (00_scope.md R10, R11; the list of moves is the model's, log 1). That holds where no step is under
way that never completes; a machine in which one is stays as it is (93_implementation_defined.md U8, `stuck`; log 15). -/
def Obligations.StepRunsDecodedInput : Prop :=
  ∀ (s : State) (rest : List Input), (s.hung = true → step s = .next s) ∧ (s.hung = false →
    (∀ bytes i, s.inputs = .read bytes :: rest → decode ⟨.regRead, bytes⟩ = .ok i → step s = exec i { s with inputs := rest }) ∧
    (∀ bytes i, s.inputs = .write bytes :: rest → decode ⟨.regWrite, bytes⟩ = .ok i → step s = exec i { s with inputs := rest }) ∧
    (∀ bytes i, s.inputs = .event bytes :: rest → decode ⟨.event, bytes⟩ = .ok i → step s = exec i { s with inputs := rest }) ∧
    (∀ m, s.inputs = .move m :: rest → m.instr.wf = true → step s = exec m.instr { s with inputs := rest }) ∧
    (∀ n, s.inputs = .wait n :: rest → step s = .next { s with inputs := rest, h := { s.h with now := s.h.now + n } }))

/-- With no move left and no step under way that never completes (log 15), a step delivers a pending event, the clock not before the cycle it is due; of two pending events the one due at
the earlier cycle goes first; with none pending the machine stays as it is (45_interfaces.md R189, 60_exceptions.md R208,
70_reset_and_hazards.md R218; the lateness, and the order of two events due at one cycle, are free values, log 14). -/
def Obligations.StepWithoutInputDelivers : Prop :=
  ∀ s : State, s.hung = false → s.inputs = [] →
    (s.h.pendDriver = none → s.h.pendSync = none → step s = .next s) ∧
    (∀ p, s.h.pendDriver = some p → (∀ q, s.h.pendSync = some q → p.since + p.delay < q.since + q.delay) → ∃ late : Nat,
      step s = exec .driverStep { s with
        h := { s.h with now := max s.h.now (p.since + p.delay) + late }
        env := { s.env with draws := s.env.draws + 1 } }) ∧
    (∀ q, s.h.pendSync = some q → (∀ p, s.h.pendDriver = some p → q.since + q.delay < p.since + p.delay) → ∃ late : Nat,
      step s = exec .syncStep { s with
        h := { s.h with now := max s.h.now (q.since + q.delay) + late }
        env := { s.env with draws := s.env.draws + 1 } }) ∧
    (∀ p q, s.h.pendDriver = some p → s.h.pendSync = some q → p.since + p.delay = q.since + q.delay → ∃ late : Nat,
      step s = exec .driverStep { s with
        h := { s.h with now := max s.h.now (p.since + p.delay) + late }
        env := { s.env with draws := s.env.draws + 1 } } ∨
      step s = exec .syncStep { s with
        h := { s.h with now := max s.h.now (q.since + q.delay) + late }
        env := { s.env with draws := s.env.draws + 1 } })

/-! ### Register accesses -/

/-- RD of MADR, QWC, TADR, ASR0, ASR1 returns the register and changes no state but the model's record of the value returned
(40_host_kickoff.md R110). -/
def Obligations.RegisterReadsReturnValues : Prop :=
  ∀ s : State,
    exec .rdMadr s = .next { s with trace := .regRead .madr s.r.madr :: s.trace } ∧
    exec .rdQwc s = .next { s with trace := .regRead .qwc s.r.qwc :: s.trace } ∧
    exec .rdTadr s = .next { s with trace := .regRead .tadr s.r.tadr :: s.trace } ∧
    exec .rdAsr0 s = .next { s with trace := .regRead .asr0 s.r.asr0 :: s.trace } ∧
    exec .rdAsr1 s = .next { s with trace := .regRead .asr1 s.r.asr1 :: s.trace }

/-- RD CHCR returns the fields packed at the places of 30_encoding.md R102, and changes no state but the model's record of the value
returned (40_host_kickoff.md R110). -/
def Obligations.ControlRegisterReadsItsFields : Prop :=
  ∀ s : State, ∃ v : Word, exec .rdChcr s = .next { s with trace := .regRead .chcr v :: s.trace } ∧
    v.getLsbD 0 = s.r.chcr.dir ∧ v.getLsbD 1 = s.r.chcr.held1 ∧ v.extractLsb' 2 2 = s.r.chcr.mod ∧
    v.extractLsb' 4 2 = s.r.chcr.asp ∧ v.getLsbD 6 = s.r.chcr.tte ∧ v.getLsbD 7 = s.r.chcr.tie ∧
    v.getLsbD 8 = s.r.chcr.run ∧ v.extractLsb' 9 7 = s.r.chcr.held9 ∧ v.extractLsb' 16 16 = s.r.chcr.lastTag

/-- WR of MADR, QWC, TADR, ASR0, ASR1 sets that register and nothing else, the queue depth included
(40_host_kickoff.md R111). -/
def Obligations.RegisterWritesSetOneRegister : Prop :=
  ∀ (s : State) (v : Word),
    exec (.wrMadr v) s = .next { s with r := { s.r with madr := v } } ∧
    exec (.wrQwc v) s = .next { s with r := { s.r with qwc := v } } ∧
    exec (.wrTadr v) s = .next { s with r := { s.r with tadr := v } } ∧
    exec (.wrAsr0 v) s = .next { s with r := { s.r with asr0 := v } } ∧
    exec (.wrAsr1 v) s = .next { s with r := { s.r with asr1 := v } }

/-- WR CHCR that is no transition of the run bit from clear to set replaces the register's fields and does nothing else
(40_host_kickoff.md R112). -/
def Obligations.ControlWriteWithoutTransition : Prop :=
  ∀ (s : State) (v : Word), s.r.chcr.run = true ∨ v.getLsbD 8 = false →
    exec (.wrChcr v) s = .next { s with r := { s.r with chcr :=
      { dir := v.getLsbD 0, held1 := v.getLsbD 1, mod := v.extractLsb' 2 2, asp := v.extractLsb' 4 2, tte := v.getLsbD 6,
        tie := v.getLsbD 7, run := v.getLsbD 8, held9 := v.extractLsb' 9 7, lastTag := v.extractLsb' 16 16 } } }

/-- WR CHCR completes whatever the value, where it is no kickoff or `R.madr` and `R.tadr` are quadword-aligned (20_memory.md R87),
and a read that follows returns every bit as written: Kickoff changes none of them (40_host_kickoff.md R110, R112, R121; 10_state.md
R35). -/
def Obligations.ControlWriteReadsBack : Prop :=
  ∀ (s : State) (v : Word), s.r.chcr.run = true ∨ v.getLsbD 8 = false ∨ s.r.onQuadwords = true →
    ∃ t, exec (.wrChcr v) s = .next t ∧ exec .rdChcr t = .next { t with trace := .regRead .chcr v :: t.trace }

/-- WR CHCR that takes the run bit from clear to set is the write of the fields and Kickoff, in one step
(40_host_kickoff.md R112, R113); with `R.madr` and `R.tadr` quadword-aligned (20_memory.md R87) it completes. -/
def Obligations.RunBitTransitionKicksOff : Prop :=
  ∀ (s : State) (v : Word), s.r.chcr.run = false → v.getLsbD 8 = true →
    exec (.wrChcr v) s = exec .kickoff { s with r := { s.r with chcr :=
      { dir := v.getLsbD 0, held1 := v.getLsbD 1, mod := v.extractLsb' 2 2, asp := v.extractLsb' 4 2, tte := v.getLsbD 6,
        tie := v.getLsbD 7, run := true, held9 := v.extractLsb' 9 7, lastTag := v.extractLsb' 16 16 } } } ∧
    (s.r.onQuadwords = true → ∃ t, exec (.wrChcr v) s = .next t)

/-! ### Kickoff -/

/-- Kickoff's whole effect: the mode, `done` and `inProgress` of the run, the queue depth, the accounting, the stall indicator, and
the first driver step after 4 cycles unless a stall sub-state is active; nothing else (40_host_kickoff.md R114 to R121). The premise is
20_memory.md R87's. -/
def Obligations.KickoffOpensRun : Prop :=
  ∀ s : State, s.r.onQuadwords = true → exec .kickoff s = .next { s with
    v := { s.v with
      mode := if s.r.qwc = 0#32 ∨ s.r.chcr.mod = 1#2 then .chain else .normalFromMemory
      done := decide (s.r.qwc ≠ 0#32 ∧ (s.r.chcr.mod ≠ 1#2 ∨ s.r.chcr.lastTag.extractLsb' 12 3 = 0#3 ∨
        s.r.chcr.lastTag.extractLsb' 12 3 = 7#3 ∨ (s.r.chcr.lastTag.getLsbD 15 = true ∧ s.r.chcr.tie = true)))
      inProgress := decide (s.r.qwc ≠ 0#32) }
    t := { s.t with queueDepth := min s.r.qwc.toNat 8 }
    h := { s.h with
      cycles := 0
      stallInd := false
      pendDriver := if s.t.stopped || s.t.irqStalled || s.t.otherStall then s.h.pendDriver else some ⟨4, s.h.now⟩ }
    trace := (if s.t.stopped || s.t.irqStalled || s.t.otherStall then [] else [.scheduleEvent .driver 4]) ++
      .setStallFlag false :: s.trace }

/-! ### Chain tags -/

/-- Chain-advance of the kinds that use no stack: where the element lies, where the next tag is, whether the chain ends; only
`R.madr` and `R.tadr` change (42_chain_tags.md R147, R149, R150, R151, R152, R153, R156). -/
def Obligations.ChainAdvanceMovesPointers : Prop :=
  ∀ (k : TagKind) (s : State), k ≠ .call → k ≠ .ret →
    exec (.chainAdvance k) s = .next { s with
      r := { s.r with
        madr := match k with
          | .refe | .ref | .refs => s.r.madr
          | _ => s.r.tadr + 16#32
        tadr := match k with
          | .cnt => s.r.tadr + 16#32 + 16#32 * s.r.qwc
          | .next => s.r.madr
          | .endTag => s.r.tadr
          | _ => s.r.tadr + 16#32 }
      trace := .chainAdvance k (decide (k = .refe ∨ k = .endTag)) :: s.trace }

/-- Chain-advance of CALL and RET: the push, the pop with its zeroing, and the two stack faults, which end the chain with the tag
pointer where it is (42_chain_tags.md R154, R155; 60_exceptions.md R203). -/
def Obligations.CallPushesAndRetPops : Prop :=
  ∀ s : State,
    (s.r.chcr.asp = 0#2 → exec (.chainAdvance .call) s = .next { s with
      r := { s.r with madr := s.r.tadr + 16#32, asr0 := s.r.tadr + 16#32 + 16#32 * s.r.qwc, tadr := s.r.madr,
                      chcr := { s.r.chcr with asp := 1#2 } }
      trace := .chainAdvance .call false :: s.trace }) ∧
    (s.r.chcr.asp = 1#2 → exec (.chainAdvance .call) s = .next { s with
      r := { s.r with madr := s.r.tadr + 16#32, asr1 := s.r.tadr + 16#32 + 16#32 * s.r.qwc, tadr := s.r.madr,
                      chcr := { s.r.chcr with asp := 2#2 } }
      trace := .chainAdvance .call false :: s.trace }) ∧
    (s.r.chcr.asp = 2#2 ∨ s.r.chcr.asp = 3#2 → exec (.chainAdvance .call) s = .next { s with
      r := { s.r with madr := s.r.tadr + 16#32 }
      trace := .chainAdvance .call true :: .anomaly .stackOverflow :: s.trace }) ∧
    (s.r.chcr.asp = 2#2 → exec (.chainAdvance .ret) s = .next { s with
      r := { s.r with madr := s.r.tadr + 16#32, tadr := s.r.asr1, asr1 := 0#32, chcr := { s.r.chcr with asp := 1#2 } }
      trace := .chainAdvance .ret false :: s.trace }) ∧
    (s.r.chcr.asp = 1#2 → exec (.chainAdvance .ret) s = .next { s with
      r := { s.r with madr := s.r.tadr + 16#32, tadr := s.r.asr0, asr0 := 0#32, chcr := { s.r.chcr with asp := 0#2 } }
      trace := .chainAdvance .ret false :: s.trace }) ∧
    (s.r.chcr.asp = 0#2 ∨ s.r.chcr.asp = 3#2 → exec (.chainAdvance .ret) s = .next { s with
      r := { s.r with madr := s.r.tadr + 16#32 }
      trace := .chainAdvance .ret true :: .anomaly .stackUnderflow :: s.trace })

/-- A RET that finds the stack as a CALL left it comes back to the quadword after the CALL's data, with the pointer the CALL
found, wherever the RET stands (42_chain_tags.md R154, R155). -/
def Obligations.ReturnUndoesCall : Prop :=
  ∀ s u w x : State, s.r.chcr.asp.toNat < 2 → exec (.chainAdvance .call) s = .next u →
    w.r.asr0 = u.r.asr0 → w.r.asr1 = u.r.asr1 → w.r.chcr.asp = u.r.chcr.asp → exec (.chainAdvance .ret) w = .next x →
    x.r.tadr = s.r.tadr + 16#32 + 16#32 * s.r.qwc ∧ x.r.chcr.asp = s.r.chcr.asp ∧ x.r.madr = w.r.tadr + 16#32

/-- A fetched tag of any of the eight kinds (REFE, CNT, NEXT, REF, REFS, CALL, RET, END) with tag transfer off completes: the
registers are loaded from it and moved by its kind's chain-advance, one cycle is charged, the resume offset is cleared, `done` is the
end of the chain or an IRQ request with tag-irq-enable, the element is in progress where the count is not 0, and nothing else
changes (41_chain_walker.md R134 to R137, R142 to R145; an aligned address field is 30_encoding.md R99's premise). -/
def Obligations.TagWithoutTransferLoadsAndAdvances : Prop :=
  ∀ (k : TagKind) (f : TagFields) (s : State), f.addr.extractLsb' 0 4 = 0#4 → s.r.chcr.tte = false →
    ∃ u, exec (k.instr f) s = .next u ∧
      u.r = (advance k (loadedRegs k f s.r)).1 ∧
      u.v = { s.v with
        inProgress := decide (f.qwc ≠ 0#16)
        resumeOffset := ⟨false, 0⟩
        done := (advance k (loadedRegs k f s.r)).2 || (f.irq && s.r.chcr.tie) } ∧
      u.h = { s.h with cycles := s.h.cycles + 1 } ∧
      u.t = s.t ∧ u.p = s.p ∧ u.env = s.env ∧ SameWorld s u

/-- With tag transfer on, a fetched tag offers the payload decoder the upper half of the masked tag, from the pending offset on, or
from word 2 for a fresh tag, whose offset is armed before the feed: the decoder sees it whatever it answers
(41_chain_walker.md R138, R139, R140; 70_reset_and_hazards.md R234; an aligned address field is 30_encoding.md R99's premise). -/
def Obligations.TagDataFeedOffersUpperHalf : Prop :=
  ∀ (k : TagKind) (f : TagFields) (s : State), f.addr.extractLsb' 0 4 = 0#4 → s.r.chcr.tte = true →
    ∃ u later, exec (k.instr f) s = .next u ∧
      u.trace = later ++ .unpack (tagDataWords f s.v) true (armedOffset s.v) (nextUnpack s).consumed
        (takenOf (nextUnpack s) (4 - tagDataOffset s.v)) :: s.trace ∧
      (s.v.resumeOffset.enabled = false → tagDataWords f s.v = [f.data.extractLsb' 0 32, f.data.extractLsb' 32 32]) ∧
      (s.v.resumeOffset = ⟨true, 2⟩ → tagDataWords f s.v = [f.data.extractLsb' 0 32, f.data.extractLsb' 32 32]) ∧
      (s.v.resumeOffset = ⟨true, 3⟩ → tagDataWords f s.v = [f.data.extractLsb' 32 32])

/-- With tag transfer on and the feed consumed, a fetched tag of any kind completes as without it, the feed's cost charged
besides, and the decoder's effects applied (41_chain_walker.md R142 to R145; 45_interfaces.md R186; an aligned address field is
30_encoding.md R99's premise). -/
def Obligations.ConsumedTagDataCompletesTag : Prop :=
  ∀ (k : TagKind) (f : TagFields) (s : State), f.addr.extractLsb' 0 4 = 0#4 → s.r.chcr.tte = true →
    (nextUnpack s).consumed = true →
    ∃ u, exec (k.instr f) s = .next u ∧
      u.r = (advance k (loadedRegs k f s.r)).1 ∧
      u.v = { applyRuntimeFx (nextUnpack s).fx s.v with
        inProgress := decide (f.qwc ≠ 0#16)
        resumeOffset := ⟨false, 0⟩
        done := (advance k (loadedRegs k f s.r)).2 || (f.irq && s.r.chcr.tie) } ∧
      u.h = { s.h with cycles := s.h.cycles + 1 + xferCost s.platform 4 } ∧
      u.t = applyStatusFx (nextUnpack s).fx.status s.t ∧ u.p = applyCoprocFx (nextUnpack s).fx.coproc s.p ∧ SameWorld s u ∧
      u.env = { s.env with unpacks := s.env.unpacks.tail, draws := u.env.draws }

/-- With tag transfer on and the feed not consumed, the tag pointer stays at the tag, the count is zero, the resume offset has
moved on by the words accepted, `done` is unchanged and no chain-advance is made (41_chain_walker.md R141; an aligned address field is
30_encoding.md R99's premise). -/
def Obligations.RefusedTagDataKeepsTag : Prop :=
  ∀ (k : TagKind) (f : TagFields) (s : State), f.addr.extractLsb' 0 4 = 0#4 → s.r.chcr.tte = true →
    (nextUnpack s).consumed = false →
    let delivered := tagDataOffset s.v + min (nextUnpack s).taken (4 - tagDataOffset s.v)
    ∃ u, exec (k.instr f) s = .next u ∧
      u.r = { loadedRegs k f s.r with qwc := 0#32 } ∧
      u.v = { applyRuntimeFx (nextUnpack s).fx s.v with inProgress := false, resumeOffset := ⟨true, delivered⟩ } ∧
      u.h = { s.h with cycles := s.h.cycles + 1 + xferCost s.platform delivered } ∧
      u.t = applyStatusFx (nextUnpack s).fx.status s.t ∧ u.p = applyCoprocFx (nextUnpack s).fx.coproc s.p ∧ SameWorld s u ∧
      u.env = { s.env with unpacks := s.env.unpacks.tail, draws := u.env.draws } ∧
      u.trace = .anomaly .feedRefused :: .unpack (tagDataWords f s.v) true (armedOffset s.v) false
        (min (nextUnpack s).taken (4 - tagDataOffset s.v)) :: s.trace

/-- A REFE or END tag leaves `done` set, unless its tag data was refused (42_chain_tags.md R147 (b), 41_chain_walker.md R143; the
exception is 95_test_vectors.md V-P2's). -/
def Obligations.TerminalTagSetsDone : Prop :=
  ∀ (f : TagFields) (s u : State), exec (.refe f) s = .next u ∨ exec (.endTag f) s = .next u →
    u.v.done = true ∨ (s.r.chcr.tte = true ∧ (nextUnpack s).consumed = false ∧ u.v.done = s.v.done)

/-! ### Tag fetch -/

/-- A tag fetch at an aligned mapped address that the collaborator does not stall reads the sixteen bytes at `R.tadr`, and is exec
of the tag they decode to, which completes where its address field is aligned (41_chain_walker.md R133, R134; 45_interfaces.md R184 (a);
20_memory.md R83, R84, R87). The state the tag is run in differs from `s` in the draw of the stall (its reply taken off the list, the
counter of free values) and in the trace alone. -/
def Obligations.TagFetchRunsDecodedTag : Prop :=
  ∀ s : State, s.r.tadr.extractLsb' 0 4 = 0#4 → isMapped s.platform s.r.tadr = true → (drawFetchStall s).1 = false →
    ∃ (q : Quad) (i : Instr) (n : Nat),
      let s' : State := { s with
        env := { s.env with fetchStalls := s.env.fetchStalls.tail, draws := n }
        trace := .fetchTag s.r.tadr (.tag q) :: s.trace }
      decode ⟨.tag, (List.range 16).map fun j => readByte (drawFetchStall s).2 (s.r.tadr + BitVec.ofNat 32 j)⟩ = .ok i ∧
      decodeTag q = i ∧ exec .tagFetch s = exec i s' ∧
      (q.extractLsb' 32 4 = 0#4 → ∃ u, exec i s' = .next u)

/-- A tag fetch that stalls, because its address is unmapped or by the collaborator's own draw, leaves every register, the runtime
state, the status blocks, the hidden state and memory as they are (41_chain_walker.md R133; 45_interfaces.md R184 (b), (d);
60_exceptions.md R201). -/
def Obligations.StalledTagFetchLeavesBlock : Prop :=
  ∀ s : State, s.r.tadr.extractLsb' 0 4 = 0#4 → isMapped s.platform s.r.tadr = false ∨ (drawFetchStall s).1 = true →
    ∃ u, exec .tagFetch s = .next u ∧ u.r = s.r ∧ u.v = s.v ∧ u.t = s.t ∧ u.p = s.p ∧ u.h = s.h ∧ SameWorld s u ∧
      u.env = { s.env with fetchStalls := u.env.fetchStalls, draws := u.env.draws } ∧
      u.trace = .anomaly .fetchStall :: .fetchTag s.r.tadr .stall :: s.trace

/-- What is no multiple of 16 has no meaning: `R.madr` or `R.tadr` where a run starts or goes on (Kickoff, a driver step), a fetched
tag's address field, whatever its kind, and the address an element or a tag is read at (20_memory.md R87, 30_encoding.md R99,
93_implementation_defined.md U1; that these are the places where it is refused is the model's reading, log 7). -/
def Obligations.MisalignedAccessIsRefused : Prop :=
  ∀ (s : State) (a : Word) (k : TagKind) (f : TagFields),
    (s.r.madr.extractLsb' 0 4 ≠ 0#4 ∨ s.r.tadr.extractLsb' 0 4 ≠ 0#4 →
      exec .kickoff s = .refused (.misalignedRun s.r.madr s.r.tadr) ∧
      exec .driverStep s = .refused (.misalignedRun s.r.madr s.r.tadr)) ∧
    (f.addr.extractLsb' 0 4 ≠ 0#4 → exec (k.instr f) s = .refused (.misalignedField f.addr)) ∧
    (s.r.madr.extractLsb' 0 4 ≠ 0#4 → s.r.qwc ≠ 0#32 → exec .elem s = .refused (.misalignedElement s.r.madr)) ∧
    (s.r.tadr.extractLsb' 0 4 ≠ 0#4 → exec .tagFetch s = .refused (.misalignedTag s.r.tadr)) ∧
    (a.extractLsb' 0 4 ≠ 0#4 → exec (.fetchTag a) s = .refused (.misalignedTag a))

/-! ### Element transfer -/

/-- ELEM with nothing left clears `inProgress` and reports true; with an unmapped target it drops the element, keeping
`inProgress`, `R.madr` and the resume offset, and reports true. Nothing else changes but the model's trace
(41_chain_walker.md R128, R129; 60_exceptions.md R199). -/
def Obligations.EmptyOrUnmappedElement : Prop :=
  ∀ s : State,
    (s.r.qwc = 0#32 → exec .elem s = .next { s with
      v := { s.v with inProgress := false }
      trace := .elemReport true :: s.trace }) ∧
    (s.r.qwc ≠ 0#32 → s.r.madr.extractLsb' 0 4 = 0#4 → isMapped s.platform s.r.madr = false → exec .elem s = .next { s with
      v := { s.v with cmd := 0, tagSize := 0 }
      r := { s.r with qwc := 0#32 }
      trace := .elemReport true :: .anomaly .unmappedElement :: .translate s.r.madr false :: s.trace })

/-- ELEM with a mapped target: the words left of the element are offered in ascending order from the resume offset on, the
decoder's effects are applied, and the registers, the resume offset and the cycle count account for what was taken
(41_chain_walker.md R130, R131). `off` is the pending offset, `count` the words offered, `total` the words delivered so far. -/
def Obligations.ElementTransferAccounts : Prop :=
  ∀ s : State, s.r.qwc ≠ 0#32 → s.r.madr.extractLsb' 0 4 = 0#4 → isMapped s.platform s.r.madr = true →
    let off := if s.v.resumeOffset.enabled then s.v.resumeOffset.wordCount else 0
    let count := 4 * s.r.qwc.toNat - off
    let reply := nextUnpack (freshDraws s)
    let taken := if reply.consumed then count else min reply.taken count
    let total := off + taken
    let q := min s.r.qwc.toNat (total / 4)
    ∃ u, exec .elem s = .next u ∧
      u.r = { s.r with madr := s.r.madr + BitVec.ofNat 32 (16 * q), qwc := BitVec.ofNat 32 (s.r.qwc.toNat - q) } ∧
      u.v = { applyRuntimeFx reply.fx s.v with
        resumeOffset := if total % 4 = 0 then ⟨false, 0⟩ else ⟨true, total % 4⟩ } ∧
      u.h = { s.h with cycles := s.h.cycles + xferCost s.platform total } ∧
      u.t = applyStatusFx reply.fx.status s.t ∧ u.p = applyCoprocFx reply.fx.coproc s.p ∧ SameWorld s u ∧
      u.env = { s.env with unpacks := s.env.unpacks.tail, draws := u.env.draws } ∧
      u.trace = .elemReport reply.consumed :: (if reply.consumed then [] else [.anomaly .feedRefused]) ++
        .unpack ((List.range count).map fun j => readWord s (s.r.madr + BitVec.ofNat 32 (4 * (off + j)))) false
          s.v.resumeOffset reply.consumed taken :: .translate s.r.madr true :: s.trace

/-- ELEM loses no word and makes none up: the words left before are the words taken and the words left after, where the resume
offset was within a quadword (derived from 41_chain_walker.md R130, R131 and 10_state.md R37). -/
def Obligations.ElementTransferConservesWords : Prop :=
  ∀ s u : State, s.r.qwc ≠ 0#32 → isMapped s.platform s.r.madr = true →
    (s.v.resumeOffset.enabled = true → s.v.resumeOffset.wordCount ≤ 4) → exec .elem s = .next u →
    elemCount s.r s.v = takenOf (nextUnpack (freshDraws s)) (elemCount s.r s.v) + elemCount u.r u.v ∧
    (u.v.resumeOffset.enabled = true → u.v.resumeOffset.wordCount ≤ 3 ∧ u.r.qwc ≠ 0#32)

/-- What the core itself writes into its address registers keeps them quadword-aligned: element transfer, chain-advance, a fetched
tag of any kind, the tag fetch, and the driver's and the synchronizer's whole steps (10_state.md R37). -/
def Obligations.CoreKeepsAddressesAligned : Prop :=
  ∀ (s u : State) (i : Instr) (k : TagKind) (f : TagFields), s.r.quadAligned = true →
    i ∈ [.elem, .chainAdvance k, k.instr f, .tagFetch, .driverStep, .syncStep] → exec i s = .next u → u.r.quadAligned = true

/-! ### The Completion Driver -/

/-- A driver step that finds the co-processor wait hands the channel to the synchronizer: it signals nothing, moves nothing and
fetches nothing (44_completion_driver.md R168, R170; 60_exceptions.md R208; the first premise is 20_memory.md R87's). -/
def Obligations.DriverDefersToSynchronizer : Prop :=
  ∀ s : State, s.r.onQuadwords = true → s.v.waitingForCoprocessor = true →
    ∃ u, exec .driverStep s = .next u ∧
      u.h = { cycles := 0, pendDriver := none, pendSync := some ⟨s.platform.syncDeferDelay, clockAt s.h s.h.pendDriver⟩,
              stallInd := true, now := clockAt s.h s.h.pendDriver } ∧
      u.t = { s.t with queueDepth := min s.r.qwc.toNat 8 } ∧
      u.r = s.r ∧ u.v = s.v ∧ u.p = s.p ∧ u.env = s.env ∧ SameWorld s u ∧
      u.trace = .stepEnd (.rescheduleAfter s.platform.syncDeferDelay) :: .setStallFlag true ::
        .scheduleEvent .sync s.platform.syncDeferDelay ::
        ((if s.r.chcr.run then [] else [.anomaly .runBitClear, .log .runBitClear]) ++ s.trace)

/-- An interrupt stall with a request pending, a stall sub-state active once the step has set its own, and work left: one
interrupt is signalled, one request removed, and the run is suspended with nothing scheduled
(44_completion_driver.md R168, R172; the first premise is 20_memory.md R87's). -/
def Obligations.InterruptStallSuspends : Prop :=
  ∀ s : State, s.r.onQuadwords = true → s.v.waitingForCoprocessor = false → s.v.stall = ⟨true, .irqStall⟩ →
    0 < s.v.pendingIrqCount →
    (s.t.stopped = true ∨ s.t.irqStalled = true ∨ s.t.otherStall = true ∨ isExempt s.platform s.v.cmd = false) →
    (s.r.qwc ≠ 0#32 ∨ s.v.done = false) →
    ∃ u, exec .driverStep s = .next u ∧
      u.v = { s.v with pendingIrqCount := s.v.pendingIrqCount - 1 } ∧
      u.t = { s.t with
        queueDepth := min s.r.qwc.toNat 8
        interruptFlag := s.t.interruptFlag || !s.t.errorSub
        irqStalled := s.t.irqStalled || !isExempt s.platform s.v.cmd
        decodePhase := .decoding } ∧
      u.h = { s.h with cycles := 0, pendDriver := none, stallInd := true, now := clockAt s.h s.h.pendDriver } ∧
      u.r = s.r ∧ u.p = s.p ∧ u.env = s.env ∧ SameWorld s u ∧
      pulses .irqStall u.trace = pulses .irqStall s.trace + 1 ∧ pulses .completion u.trace = pulses .completion s.trace

/-- With no wait, an interrupt due not suspending it and an element in progress, a driver step is ELEM on the state its first seven
steps leave (an interrupt due signalled and its request removed, the stall cleared, the phase recomputed), then the queue depth, and
the next driver step after the cycles it cost; neither the enable flag nor the stopped sub-state is asked
(44_completion_driver.md R168, R169, R171 to R175; the first premise is 20_memory.md R87's). The source does not give the phase
function (R174): it is the spec's decision D25 from general knowledge, taken as it stands (log 23). Step 5 is read by the spec's
decisions D22 (the stall must be enabled), D23 (what suspends) and D26 (which commands are exempt).
ELEM's report is a note of the model's trace that the step does not make. -/
def Obligations.DriverTransfersElement : Prop :=
  ∀ s e : State, s.r.onQuadwords = true → s.v.waitingForCoprocessor = false → suspendsOnIrq s = false → s.v.inProgress = true →
    exec .elem (arbitrated s) = .next e →
    exec .driverStep s = .next { e with
      t := { e.t with queueDepth := min e.r.qwc.toNat 8 }
      h := { e.h with pendDriver := some ⟨e.h.cycles, e.h.now⟩ }
      trace := .stepEnd (.rescheduleAfter e.h.cycles) :: .scheduleEvent .driver e.h.cycles :: e.trace.tail }

/-- A driver step on an element completes: with no wait and an interrupt due not suspending it, an element in progress, empty or not,
mapped or not, is taken through to the re-schedule, one interrupt request fewer where one was due
(44_completion_driver.md R172, R175; the first premise is 20_memory.md R87's). -/
def Obligations.DriverStepOnElementCompletes : Prop :=
  ∀ s : State, s.r.onQuadwords = true → s.v.waitingForCoprocessor = false → suspendsOnIrq s = false → s.v.inProgress = true →
    ∃ u n, exec .driverStep s = .next u ∧ u.h.pendDriver = some ⟨n, u.h.now⟩ ∧ u.h.pendSync = s.h.pendSync ∧
      u.t.queueDepth = min u.r.qwc.toNat 8 ∧ u.v.inProgress = decide (s.r.qwc ≠ 0#32) ∧ u.v.done = s.v.done ∧
      u.r = { s.r with madr := u.r.madr, qwc := u.r.qwc } ∧ SameWorld s u ∧
      pulses .irqStall u.trace = pulses .irqStall s.trace + (if irqDue s.v then 1 else 0) ∧
      pulses .completion u.trace = pulses .completion s.trace

/-- With the chain to be continued: where DMA is disabled or the channel is stopped, a driver step does nothing past its first seven
steps (an interrupt due signalled and its request removed, the stall cleared, the queue depth and the decode phase recomputed),
schedules nothing and leaves the run open; else it is the tag fetch on the state those leave, then the queue depth, and the next
driver step after the cycles the fetch cost (44_completion_driver.md R168, R169, R171 to R174, R176; the first premise is
20_memory.md R87's). The source does not give the phase function (R174): it is the spec's decision D25 from general knowledge, taken as
it stands (log 23). Step 5 is read by the spec's decisions D22 (the stall must be enabled), D23 (what suspends) and
D26 (which commands are exempt). -/
def Obligations.DriverContinuesChain : Prop :=
  ∀ s : State, s.r.onQuadwords = true → s.v.waitingForCoprocessor = false → suspendsOnIrq s = false →
    s.v.inProgress = false → s.v.done = false →
    (s.g.dmaEnable = false ∨ s.t.stopped = true →
      exec .driverStep s = .next { arbitrated s with trace := .stepEnd .idle :: (arbitrated s).trace }) ∧
    (s.g.dmaEnable = true ∧ s.t.stopped = false → ∀ e, exec .tagFetch (arbitrated s) = .next e →
      exec .driverStep s = .next { e with
        t := { e.t with queueDepth := min e.r.qwc.toNat 8 }
        h := { e.h with pendDriver := some ⟨e.h.cycles, e.h.now⟩ }
        trace := .stepEnd (.rescheduleAfter e.h.cycles) :: .scheduleEvent .driver e.h.cycles :: e.trace })

/-- A driver step on a done channel with no element in progress finalizes the state its first seven steps leave, an interrupt due but
not suspending it signalled first, and a queued program executed before `Completion`: the whole state after it
(44_completion_driver.md R168, R172, R173, R174, R178; 45_interfaces.md R195; the first premise is 20_memory.md R87's; that a queued
program's own effects come after its request is cleared is the model's reading, log 17). -/
def Obligations.DriverFinalizesDoneRun : Prop :=
  ∀ s : State, s.r.onQuadwords = true → s.v.waitingForCoprocessor = false → suspendsOnIrq s = false →
    s.v.inProgress = false → s.v.done = true →
    ∃ u, exec .driverStep s = .next u ∧
      u.r = { s.r with chcr := { s.r.chcr with run := false } } ∧
      u.h = { (arbitrated s).h with stallInd := false } ∧ SameWorld s u ∧
      pulses .completion u.trace = pulses .completion s.trace + 1 ∧
      pulses .irqStall u.trace = pulses .irqStall s.trace + (if irqDue s.v then 1 else 0) ∧
      (s.v.queuedProgramPending = false →
        u.v = { (arbitrated s).v with resumeOffset := { s.v.resumeOffset with enabled := false } } ∧
        u.t = { (arbitrated s).t with queueDepth := 0 } ∧ u.p = s.p ∧ u.env = s.env ∧
        u.trace = .stepEnd .done :: .setStallFlag false :: .raiseLine .completion :: (arbitrated s).trace) ∧
      (s.v.queuedProgramPending = true →
        u.v = applyRuntimeFx (nextQueued s).fx { (arbitrated s).v with
          resumeOffset := { s.v.resumeOffset with enabled := false }
          queuedProgramPending := false } ∧
        u.t = { applyStatusFx (nextQueued s).fx.status (arbitrated s).t with queueDepth := 0 } ∧
        u.p = applyCoprocFx (nextQueued s).fx.coproc { s.p with busy := s.p.busy || (nextQueued s).startsProgram } ∧
        u.env = { s.env with queued := s.env.queued.tail, draws := u.env.draws } ∧
        u.trace = .stepEnd .done :: .setStallFlag false :: .raiseLine .completion :: .executeQueuedProgram :: (arbitrated s).trace)

/-- FINALIZE's whole effect, without and with a queued program; the program is executed before the line is raised, its request is
cleared, the co-processor is busy where the program starts, and the effects of its reply are applied
(44_completion_driver.md R178; 45_interfaces.md R186, R195; 60_exceptions.md R209). That the program clears its request is the spec's
decision D33; that its effects come after the request is cleared is the model's reading (log 17). -/
def Obligations.FinalizeClosesRun : Prop :=
  ∀ s : State,
    (s.v.queuedProgramPending = false → exec .finalize s = .next { s with
      r := { s.r with chcr := { s.r.chcr with run := false } }
      v := { s.v with
        stall := { s.v.stall with enabled := false }
        resumeOffset := { s.v.resumeOffset with enabled := false } }
      h := { s.h with cycles := 0, stallInd := false }
      t := { s.t with queueDepth := 0 }
      trace := .setStallFlag false :: .raiseLine .completion :: s.trace }) ∧
    (s.v.queuedProgramPending = true → ∃ u, exec .finalize s = .next u ∧
      u.r = { s.r with chcr := { s.r.chcr with run := false } } ∧
      u.v = applyRuntimeFx (nextQueued s).fx { s.v with
        stall := { s.v.stall with enabled := false }
        resumeOffset := { s.v.resumeOffset with enabled := false }
        queuedProgramPending := false } ∧
      ((nextQueued s).fx.queuedProgramPending = none → u.v.queuedProgramPending = false) ∧
      ((nextQueued s).fx.stall = none → u.v.stall.enabled = false) ∧
      u.t = { applyStatusFx (nextQueued s).fx.status s.t with queueDepth := 0 } ∧
      u.p = applyCoprocFx (nextQueued s).fx.coproc { s.p with busy := s.p.busy || (nextQueued s).startsProgram } ∧
      u.h = { s.h with cycles := 0, stallInd := false } ∧
      u.env = { s.env with queued := s.env.queued.tail, draws := u.env.draws } ∧ SameWorld s u ∧
      u.trace = .setStallFlag false :: .raiseLine .completion :: .executeQueuedProgram :: s.trace)

/-- After a driver step that completes, the queue depth is the count remaining capped at 8, or, where the step finalized, 0
(44_completion_driver.md R168, R175, R176, R178; 10_state.md R64). -/
def Obligations.QueueDepthFollowsCount : Prop :=
  ∀ s u : State, exec .driverStep s = .next u →
    u.t.queueDepth = min u.r.qwc.toNat 8 ∨ (u.trace.head? = some (.stepEnd .done) ∧ u.t.queueDepth = 0)

/-- A driver step finalizes only where, in this order, there is no co-processor wait, the interrupt-stall branch does not suspend,
no element is in progress and the run is done (44_completion_driver.md R182). -/
def Obligations.FinalizesOnlyWhenDone : Prop :=
  ∀ s u : State, exec .driverStep s = .next u → u.trace.head? = some (.stepEnd .done) →
    s.v.waitingForCoprocessor = false ∧ driverPhase s = .finishing ∧ s.v.inProgress = false ∧ s.v.done = true

/-- A driver step that finds the run bit clear logs it and goes on as if the bit were set: the two steps record the same port calls
after the log and end in the same state but for the bit itself (44_completion_driver.md R169, 60_exceptions.md R200). -/
def Obligations.ClearRunBitOnlyLogs : Prop :=
  ∀ s u : State, s.r.chcr.run = false →
    exec .driverStep { s with r := { s.r with chcr := { s.r.chcr with run := true } } } = .next u →
    ∃ calls, u.trace = calls ++ s.trace ∧
      exec .driverStep s = .next { u with
        r := { u.r with chcr := { u.r.chcr with run := false } }
        trace := calls ++ .anomaly .runBitClear :: .log .runBitClear :: s.trace }

/-- Every driver step that completes ends in exactly one of three outcomes: it registered an event as its last scheduling, or it
scheduled nothing and left the run open, or it finalized and scheduled nothing (00_scope.md R12). -/
def Obligations.DriverStepEndsInOneOutcome : Prop :=
  ∀ s u : State, exec .driverStep s = .next u →
    ∃ (e : StepEnd) (earlier : List TraceEvent), u.trace = .stepEnd e :: earlier ∧
      driverSteps earlier = driverSteps s.trace ∧
      (∀ n, e = .rescheduleAfter n →
        (u.h.pendDriver = some ⟨n, u.h.now⟩ ∧ u.h.pendSync = s.h.pendSync) ∨
        (u.h.pendSync = some ⟨n, u.h.now⟩ ∧ u.h.pendDriver = none)) ∧
      (e = .idle → u.h.pendDriver = none ∧ u.h.pendSync = s.h.pendSync ∧ u.r.chcr.run = s.r.chcr.run) ∧
      (e = .done → u.h.pendDriver = none ∧ u.h.pendSync = s.h.pendSync ∧ u.r.chcr.run = false)

/-- A driver step signals at most one interrupt request, exactly where an interrupt stall is due and no co-processor wait holds it,
and raises `Completion` exactly where it finalizes (44_completion_driver.md R172, R178; 60_exceptions.md R204, R206, R208). -/
def Obligations.DriverStepPulsesLine : Prop :=
  ∀ s u : State, exec .driverStep s = .next u →
    pulses .irqStall u.trace = pulses .irqStall s.trace + (if irqDue s.v && !s.v.waitingForCoprocessor then 1 else 0) ∧
    pulses .completion u.trace = pulses .completion s.trace + (if u.trace.head? = some (.stepEnd .done) then 1 else 0)

/-! ### The VU Synchronizer -/

/-- SYNCSTEP with the co-processor idle clears the peer flag and a recorded wait. Where the driver may not be re-invoked nothing
else happens; where it may, the rest of the step is a driver step (43_vu_synchronizer.md R165). -/
def Obligations.IdleCoprocessorReleasesWait : Prop :=
  ∀ s : State, s.p.busy = false → s.p.stopped = false →
    let released : State := { s with
      t := { s.t with waitPeer := false }
      v := { s.v with waitingForCoprocessor := false }
      h := { s.h with pendSync := none, now := clockAt s.h s.h.pendSync } }
    ((s.v.waitingForCoprocessor = false ∨ s.h.pendDriver ≠ none ∨ s.r.chcr.run = false ∨ s.t.stopped = true ∨
        s.t.irqStalled = true ∨ s.t.otherStall = true) →
      exec .syncStep s = .next released) ∧
    ((s.v.waitingForCoprocessor = true ∧ s.h.pendDriver = none ∧ s.r.chcr.run = true ∧ s.t.stopped = false ∧
        s.t.irqStalled = false ∧ s.t.otherStall = false) →
      exec .syncStep s = exec .driverStep released)

/-- SYNCSTEP with the co-processor stopped and not busy, or busy with its next block not yet due under pacing, runs no block,
checks again after 128 cycles and marks the channel stalled (43_vu_synchronizer.md R160, R161, R163). In every other state the catch-up
loop runs blocks up to the first state in which the co-processor is not busy or the pacing test fails, and no further: SYNCSTEP
completes without a hang only with such a number of blocks, and with any such number that the loop's fuel covers (log 15). Where the
co-processor is then stopped or still busy it checks again; where it is idle, the rest is SYNCSTEP on that state, whose event has been
delivered (R165). -/
def Obligations.HeldCoprocessorIsRechecked : Prop :=
  ∀ s : State,
    ((s.p.busy = false ∧ s.p.stopped = true) ∨
     (s.p.busy = true ∧ s.platform.pacing = true ∧
        ((clockAt s.h s.h.pendSync : Nat) : Int) - (s.p.elapsedCycles : Int) < (s.p.nextBlockCost : Int)) →
      exec .syncStep s = .next { s with
        h := { s.h with
          pendSync := some ⟨128, clockAt s.h s.h.pendSync⟩
          stallInd := true
          now := clockAt s.h s.h.pendSync }
        trace := .setStallFlag true :: .scheduleEvent .sync 128 :: s.trace }) ∧
    (∀ n ≤ catchUpRounds (syncDelivered s), catchesUpIn n (syncDelivered s) →
      let u := afterBlocks n (syncDelivered s)
      (u.p.stopped = true ∨ u.p.busy = true → exec .syncStep s = .next { u with
        h := { u.h with pendSync := some ⟨128, u.h.now⟩, stallInd := true }
        trace := .setStallFlag true :: .scheduleEvent .sync 128 :: u.trace }) ∧
      (u.p.stopped = false ∧ u.p.busy = false → exec .syncStep s = exec .syncStep u)) ∧
    (∀ t, exec .syncStep s = .next t → t.hung = false → ∃ n ≤ catchUpRounds (syncDelivered s), catchesUpIn n (syncDelivered s))

/-- A synchronizer step that does not come to the driver leaves the channel's own cycle count, its registers, its memory and its
runtime state but the recorded wait as they are, however many blocks it runs, and whether or not its loop ends
(43_vu_synchronizer.md R162; what a loop that never ends leaves is log 15's). -/
def Obligations.SynchronizerChargesNothing : Prop :=
  ∀ s u : State, exec .syncStep s = .next u → driverSteps u.trace = driverSteps s.trace →
    u.h.cycles = s.h.cycles ∧ u.r = s.r ∧ SameWorld { s with hung := u.hung } u ∧
    u.v = { s.v with waitingForCoprocessor := u.v.waitingForCoprocessor }

/-- With pacing on, a catch-up loop ends: within as many blocks as the co-processor lags behind, and one more, whether or not a wait is
recorded, since a block that leaves the co-processor busy takes at least one cycle (D44); the synchronizer step then completes wherever
it is not to come to the driver: the co-processor stopped or still busy, no wait recorded, or the driver not to be re-invoked
(43_vu_synchronizer.md R160, R161, R165; 45_interfaces.md R193). In every state the loop ends within its fuel, which covers all listed
blocks and more, or pacing is off (70_reset_and_hazards.md R231) and the step, which raises no fault (60_exceptions.md R197), hangs after
as many blocks with nothing done after the loop (93_implementation_defined.md U8, `stuck`). The fuel, and the state the hang is recorded
in, are the model's (log 15). -/
def Obligations.PacedCatchUpEnds : Prop :=
  ∀ s : State,
    (s.platform.pacing = true → ∃ n ≤ clockAt s.h s.h.pendSync - s.p.elapsedCycles + 1, catchesUpIn n (syncDelivered s) ∧
      let u := afterBlocks n (syncDelivered s)
      (u.p.busy = true ∨ u.p.stopped = true ∨ s.v.waitingForCoprocessor = false ∨ s.h.pendDriver ≠ none ∨
          s.r.chcr.run = false ∨ u.t.stopped = true ∨ u.t.irqStalled = true ∨ u.t.otherStall = true →
        ∃ t, exec .syncStep s = .next t ∧ t.hung = s.hung)) ∧
    s.env.blocks.length < catchUpRounds (syncDelivered s) ∧
    ((∃ n ≤ catchUpRounds (syncDelivered s), catchesUpIn n (syncDelivered s)) ∨
      (s.platform.pacing = false ∧ (∀ n ≤ catchUpRounds (syncDelivered s), lagsBehind (afterBlocks n (syncDelivered s))) ∧
        exec .syncStep s = .next { afterBlocks (catchUpRounds (syncDelivered s)) (syncDelivered s) with hung := true }))

/-! ### The ports -/

/-- scheduleEvent replaces the registration of its event and no other; setStallFlag drives the one indicator; raiseLine is one pulse
of the line; log changes no state (45_interfaces.md R188, R190, R191, R192). -/
def Obligations.SchedulerAndLinePorts : Prop :=
  ∀ (s : State) (d : Nat) (b : Bool) (c : IrqCause) (m : LogMessage),
    exec (.scheduleEvent .driver d) s = .next { s with
      h := { s.h with pendDriver := some ⟨d, s.h.now⟩ }, trace := .scheduleEvent .driver d :: s.trace } ∧
    exec (.scheduleEvent .sync d) s = .next { s with
      h := { s.h with pendSync := some ⟨d, s.h.now⟩ }, trace := .scheduleEvent .sync d :: s.trace } ∧
    exec (.setStallFlag b) s = .next { s with h := { s.h with stallInd := b }, trace := .setStallFlag b :: s.trace } ∧
    exec (.raiseLine c) s = .next { s with trace := .raiseLine c :: s.trace } ∧
    exec (.log m) s = .next { s with trace := .log m :: s.trace }

/-- unpack: the reply accepts at most what was offered, all of it where it consumed; its effects reach the six runtime fields, the
status block but the queue depth, and the co-processor's status, and nothing else; requests are only added and the wait is only set
(45_interfaces.md R185, R186). -/
def Obligations.UnpackKeepsItsLaws : Prop :=
  ∀ (words : List Word) (count : Nat) (isTagData : Bool) (s : State), (Instr.unpack words count isTagData).wf = true →
    ∃ u consumed taken, exec (.unpack words count isTagData) s = .next u ∧
      taken ≤ words.length ∧ (consumed = true → taken = words.length) ∧
      .unpack words isTagData s.v.resumeOffset consumed taken ∈ u.trace.take 2 ∧
      u.r = s.r ∧ u.h = s.h ∧ SameWorld s u ∧ u.t.queueDepth = s.t.queueDepth ∧
      u.v.inProgress = s.v.inProgress ∧ u.v.done = s.v.done ∧ u.v.mode = s.v.mode ∧ u.v.resumeOffset = s.v.resumeOffset ∧
      s.v.pendingIrqCount ≤ u.v.pendingIrqCount ∧
      (s.v.waitingForCoprocessor = true → u.v.waitingForCoprocessor = true)

/-- The co-processor port. executeBlock may clear busy and set stopped, advances the co-processor's clock, by at least one cycle where it
leaves the co-processor busy (the spec's assumption D44), and declares the next block's cost; finishPass leaves it not busy; executeQueuedProgram carries the request out: the request is cleared, the co-processor is busy
where the program starts, and the effects of the reply are applied. Each does to `P` what its reply says; none of them writes the
registers, the queue depth, the hidden state or the world outside (45_interfaces.md R186, R193, R194, R195). That a block may write the
other status flags, that a finish pass writes none of them and may write the other fields of `P`, is the model's reading (log 16); that
a queued program's own effects come after the request is cleared is too (log 17). -/
def Obligations.CoprocessorPortsKeepTheirLaws : Prop :=
  ∀ s : State,
    (∃ u, exec .executeBlock s = .next u ∧ u.r = s.r ∧ u.v = s.v ∧ u.h = s.h ∧ SameWorld s u ∧
      u.t = applyStatusFx (nextBlock s).status s.t ∧ u.t.queueDepth = s.t.queueDepth ∧
      u.p = { busy := s.p.busy && !(nextBlock s).clearBusy, stopped := s.p.stopped || (nextBlock s).setStopped,
              nextBlockCost := (nextBlock s).nextBlockCost, elapsedCycles := s.p.elapsedCycles + blockCost (nextBlock s) } ∧
      (u.p.busy = true → s.p.elapsedCycles + 1 ≤ u.p.elapsedCycles) ∧
      u.env = { s.env with blocks := s.env.blocks.tail, draws := u.env.draws } ∧
      u.trace = .executeBlock :: s.trace) ∧
    (∃ u, exec .finishPass s = .next u ∧ u.r = s.r ∧ u.v = s.v ∧ u.h = s.h ∧ u.t = s.t ∧ SameWorld s u ∧
      u.p = { busy := false, stopped := (nextPass s).stopped.getD s.p.stopped,
              nextBlockCost := (nextPass s).nextBlockCost.getD s.p.nextBlockCost,
              elapsedCycles := s.p.elapsedCycles + (nextPass s).cost } ∧
      u.env = { s.env with passes := s.env.passes.tail, draws := u.env.draws } ∧
      u.trace = .finishPass :: s.trace) ∧
    (∃ u, exec .executeQueuedProgram s = .next u ∧ u.r = s.r ∧ u.h = s.h ∧ SameWorld s u ∧
      u.v = applyRuntimeFx (nextQueued s).fx { s.v with queuedProgramPending := false } ∧
      ((nextQueued s).fx.queuedProgramPending = none → u.v.queuedProgramPending = false) ∧
      u.t = applyStatusFx (nextQueued s).fx.status s.t ∧ u.t.queueDepth = s.t.queueDepth ∧
      u.p = applyCoprocFx (nextQueued s).fx.coproc { s.p with busy := s.p.busy || (nextQueued s).startsProgram } ∧
      ((nextQueued s).fx.coproc.busy = none → u.p.busy = (s.p.busy || (nextQueued s).startsProgram)) ∧
      u.env = { s.env with queued := s.env.queued.tail, draws := u.env.draws } ∧
      u.trace = .executeQueuedProgram :: s.trace)

/-- translate answers from the address and the platform alone and has no side effect; fetchTag stalls on an unmapped address and
changes no state of the block (45_interfaces.md R183, R184 (a), (b), (d)). -/
def Obligations.MemoryPortKeepsItsLaws : Prop :=
  ∀ (a : Word) (s : State),
    exec (.translate a) s = .next { s with trace := .translate a (isMapped s.platform a) :: s.trace } ∧
    (a.extractLsb' 0 4 = 0#4 → ∃ u, exec (.fetchTag a) s = .next u ∧
      u.r = s.r ∧ u.v = s.v ∧ u.t = s.t ∧ u.p = s.p ∧ u.h = s.h ∧ SameWorld s u ∧
      u.env = { s.env with fetchStalls := u.env.fetchStalls, draws := u.env.draws } ∧
      (isMapped s.platform a = false → .fetchTag a .stall ∈ u.trace.take 2) ∧
      (isMapped s.platform a = true → (drawFetchStall s).1 = false →
        ∃ q : Quad, u.trace = .fetchTag a (.tag q) :: s.trace ∧
          ∀ j < 16, q.extractLsb' (8 * j) 8 = readByte (drawFetchStall s).2 (a + BitVec.ofNat 32 j)))

/-! ### The host's other moves, reset, and the pseudo-operations -/

/-- RUN_CLEAR clears the run bit and nothing else; REDRIVE schedules a driver step where none is pending; FORCE_STOP and its
pseudo-operation clear the enable flag and nothing else (40_host_kickoff.md R122, R123, R124; 30_encoding.md R109; that REDRIVE does
nothing where a driver step is pending is the model's reading, log 19). -/
def Obligations.HostMovesDoOneThing : Prop :=
  ∀ (s : State) (d : Nat),
    exec .runClear s = .next { s with r := { s.r with chcr := { s.r.chcr with run := false } } } ∧
    (s.h.pendDriver = none → exec (.redrive d) s = .next { s with
      h := { s.h with pendDriver := some ⟨d, s.h.now⟩ }, trace := .scheduleEvent .driver d :: s.trace }) ∧
    (s.h.pendDriver ≠ none → exec (.redrive d) s = .next s) ∧
    exec .forceStop s = .next { s with g := { dmaEnable := false } } ∧
    exec .forceStopPseudo s = .next { s with g := { dmaEnable := false } }

/-- STATUS_WRITE sets the fields of `T`, `P` and `G` it names, leaves the others, and touches nothing else: no event is scheduled
(40_host_kickoff.md R125). ACK clears the visible stall flag and the interrupt flag and re-drives (30_encoding.md R109); where a driver
step is pending there is no re-drive to make (log 19). -/
def Obligations.StatusWriteAndAcknowledge : Prop :=
  ∀ (s : State) (w : StatusWrite) (d : Nat),
    exec (.statusWrite w) s = .next { s with
      t := { stopped := w.status.stopped.getD s.t.stopped, irqStalled := w.status.irqStalled.getD s.t.irqStalled,
             otherStall := w.status.otherStall.getD s.t.otherStall, errorSub := w.status.errorSub.getD s.t.errorSub,
             decodePhase := w.status.decodePhase.getD s.t.decodePhase,
             waitPeerPath := w.status.waitPeerPath.getD s.t.waitPeerPath, waitPeer := w.status.waitPeer.getD s.t.waitPeer,
             queueDepth := w.queueDepth.getD s.t.queueDepth,
             interruptFlag := w.status.interruptFlag.getD s.t.interruptFlag }
      p := { busy := w.coproc.busy.getD s.p.busy, stopped := w.coproc.stopped.getD s.p.stopped,
             nextBlockCost := w.coproc.nextBlockCost.getD s.p.nextBlockCost,
             elapsedCycles := w.coproc.elapsedCycles.getD s.p.elapsedCycles }
      g := { dmaEnable := w.dmaEnable.getD s.g.dmaEnable } } ∧
    (s.h.pendDriver = none → exec (.ack d) s = .next { s with
      t := { s.t with irqStalled := false, interruptFlag := false }
      h := { s.h with pendDriver := some ⟨d, s.h.now⟩ }
      trace := .scheduleEvent .driver d :: s.trace }) ∧
    (s.h.pendDriver ≠ none → exec (.ack d) s = .next { s with
      t := { s.t with irqStalled := false, interruptFlag := false } })

/-- MEM_WRITE: each byte stored reads back at its address, addresses wrapping; every other address reads as before; nothing but
memory changes (40_host_kickoff.md R126; 20_memory.md R89). -/
def Obligations.HostStoreReadsBack : Prop :=
  ∀ (a : Word) (bytes : List Byte) (s : State), (Instr.memWrite a bytes).wf = true →
    ∃ u, exec (.memWrite a bytes) s = .next u ∧ { u with mem := s.mem } = s ∧
      (∀ (j : Nat) (b : Byte), bytes[j]? = some b → byteAt u (a + BitVec.ofNat 32 j) = b) ∧
      (∀ x : Word, (∀ j < bytes.length, x ≠ a + BitVec.ofNat 32 j) → byteAt u x = byteAt s x)

/-- RESET: the control register 0, the runtime state idle, the status blocks, the flag and the hidden state at their reset values,
whatever they were; memory, the parameters and the moves to come are not touched. The five registers without a reset value hold free
values (10_state.md R73 to R77; 70_reset_and_hazards.md R218). -/
def Obligations.ResetLeavesResetValues : Prop :=
  ∀ s : State, ∃ u, exec .reset s = .next u ∧
    u.r.chcr = { dir := false, held1 := false, mod := 0, asp := 0, tte := false, tie := false, run := false, held9 := 0, lastTag := 0 } ∧
    u.v = { cmd := 0, tagSize := 0, inProgress := false, done := false, pendingIrqCount := 0, resumeOffset := ⟨false, 0⟩,
            stall := ⟨false, .timingBreak⟩, waitingForCoprocessor := false, mode := .normalFromMemory,
            queuedProgramPending := false } ∧
    u.p = { busy := false, stopped := false, nextBlockCost := 0, elapsedCycles := 0 } ∧
    u.t = { stopped := false, irqStalled := false, otherStall := false, errorSub := false, decodePhase := .idle,
            waitPeerPath := false, waitPeer := false, queueDepth := 0, interruptFlag := false } ∧
    u.g = { dmaEnable := false } ∧
    u.h = { cycles := 0, pendDriver := none, pendSync := none, stallInd := false, now := 0 } ∧
    u.mem = s.mem ∧ u.platform = s.platform ∧ u.inputs = s.inputs ∧ u.trace = s.trace

/-- START_NORMAL and START_CHAIN are their expansions into register writes, in every state (30_encoding.md R109); they complete where
the run bit is set already or the addresses are quadword-aligned (20_memory.md R87). Started on a channel
whose run bit is clear with no stall sub-state active, START_CHAIN, and START_NORMAL with a count above 0, leave the run open as Kickoff
opens it, the first driver step 4 cycles away (40_host_kickoff.md R116, R117, R118, R120). -/
def Obligations.StartOperationsOpenRuns : Prop :=
  ∀ (s : State) (a n : Word) (tte tie : Bool),
    (∃ u₁ u₂, exec (.wrMadr a) s = .next u₁ ∧ exec (.wrQwc n) u₁ = .next u₂ ∧
      exec (.startNormal a n) s = exec (.wrChcr 0x00000101) u₂ ∧
      (s.r.chcr.run = true ∨ (a.extractLsb' 0 4 = 0#4 ∧ s.r.tadr.extractLsb' 0 4 = 0#4) →
        ∃ u, exec (.startNormal a n) s = .next u)) ∧
    (∃ u₁ u₂, exec (.wrTadr a) s = .next u₁ ∧ exec (.wrQwc 0) u₁ = .next u₂ ∧
      exec (.startChain a tte tie) s =
        exec (.wrChcr (0x00000105#32 ||| (if tte then 0x40#32 else 0#32) ||| (if tie then 0x80#32 else 0#32))) u₂ ∧
      (s.r.chcr.run = true ∨ (s.r.madr.extractLsb' 0 4 = 0#4 ∧ a.extractLsb' 0 4 = 0#4) →
        ∃ u, exec (.startChain a tte tie) s = .next u)) ∧
    (s.r.chcr.run = false → s.t.stopped = false → s.t.irqStalled = false → s.t.otherStall = false → n ≠ 0#32 →
     a.extractLsb' 0 4 = 0#4 → s.r.tadr.extractLsb' 0 4 = 0#4 →
     ∃ u, exec (.startNormal a n) s = .next u ∧ { u.r with chcr := s.r.chcr } = { s.r with madr := a, qwc := n } ∧
      packChcr u.r.chcr = 0x00000101#32 ∧
      u.v = { s.v with mode := .normalFromMemory, done := true, inProgress := true } ∧
      u.t = { s.t with queueDepth := min n.toNat 8 } ∧
      u.h = { s.h with cycles := 0, stallInd := false, pendDriver := some ⟨4, s.h.now⟩ } ∧
      u.p = s.p ∧ u.env = s.env ∧ SameWorld s u) ∧
    (s.r.chcr.run = false → s.t.stopped = false → s.t.irqStalled = false → s.t.otherStall = false →
     s.r.madr.extractLsb' 0 4 = 0#4 → a.extractLsb' 0 4 = 0#4 →
     ∃ u, exec (.startChain a tte tie) s = .next u ∧ { u.r with chcr := s.r.chcr } = { s.r with tadr := a, qwc := 0#32 } ∧
      packChcr u.r.chcr = (0x00000105#32 ||| (if tte then 0x40#32 else 0#32) ||| (if tie then 0x80#32 else 0#32)) ∧
      u.v = { s.v with mode := .chain, done := false, inProgress := false } ∧
      u.t = { s.t with queueDepth := 0 } ∧
      u.h = { s.h with cycles := 0, stallInd := false, pendDriver := some ⟨4, s.h.now⟩ } ∧
      u.p = s.p ∧ u.env = s.env ∧ SameWorld s u)

/-- RUN with nothing pending ends and changes nothing; with an event pending it delivers one, not before it is due, of two the one due at
the earlier cycle, and stands first among the moves again (30_encoding.md R109; 45_interfaces.md R189; 60_exceptions.md R208; the
lateness, and the order of two events due at one cycle, are free values, log 14; that one RUN is one delivery and is taken up again is
the model's, log 18). -/
def Obligations.RunDeliversUntilNonePending : Prop :=
  ∀ s : State,
    (s.h.pendDriver = none → s.h.pendSync = none → exec .run s = .next s) ∧
    (∀ p, s.h.pendDriver = some p → (∀ q, s.h.pendSync = some q → p.since + p.delay < q.since + q.delay) → ∃ late : Nat,
      exec .run s = exec .driverStep { s with
        h := { s.h with now := max s.h.now (p.since + p.delay) + late }
        env := { s.env with draws := s.env.draws + 1 }
        inputs := .move .run :: s.inputs }) ∧
    (∀ q, s.h.pendSync = some q → (∀ p, s.h.pendDriver = some p → q.since + q.delay < p.since + p.delay) → ∃ late : Nat,
      exec .run s = exec .syncStep { s with
        h := { s.h with now := max s.h.now (q.since + q.delay) + late }
        env := { s.env with draws := s.env.draws + 1 }
        inputs := .move .run :: s.inputs }) ∧
    (∀ p q, s.h.pendDriver = some p → s.h.pendSync = some q → p.since + p.delay = q.since + q.delay → ∃ late : Nat,
      exec .run s = exec .driverStep { s with
        h := { s.h with now := max s.h.now (p.since + p.delay) + late }
        env := { s.env with draws := s.env.draws + 1 }
        inputs := .move .run :: s.inputs } ∨
      exec .run s = exec .syncStep { s with
        h := { s.h with now := max s.h.now (q.since + q.delay) + late }
        env := { s.env with draws := s.env.draws + 1 }
        inputs := .move .run :: s.inputs })

/-! ### Whole-machine rules -/

/-- Every step keeps a sound state sound: memory canonical, the queue depth in 0 to 8, a pending resume offset within a quadword,
registrations in the past (10_state.md R37, R64; 45_interfaces.md R189). -/
def Obligations.StepKeepsSoundState : Prop :=
  ∀ s t : State, s.sound = true → step s = .next t → t.sound = true

/-- The state after reset is sound. -/
def Obligations.ResetStateIsSound : Prop :=
  State.reset.sound = true

/-- The block never writes memory: of all operations only the host's store changes what any address reads as
(20_memory.md R81). -/
def Obligations.OnlyHostStoresWriteMemory : Prop :=
  ∀ (i : Instr) (s t : State), (∀ a bytes, i ≠ .memWrite a bytes) → exec i s = .next t → ∀ a : Word, byteAt t a = byteAt s a

/-- The mode, the two tag enables and the held bits of the control register are the host's: no operation but a host write of the
whole register, or reset, changes them (10_state.md R30, R31, R32, R35). -/
def Obligations.OnlyHostWritesControlBits : Prop :=
  ∀ (i : Instr) (s t : State), writesChcr i = false → exec i s = .next t → t.r.chcr.hostOnly = s.r.chcr.hostOnly

/-- No operation but a host write of the control register sets the run bit, and apart from the host's own moves it is cleared only
where the run is finalized, with one completion interrupt (10_state.md R29; 44_completion_driver.md R178). -/
def Obligations.RunBitFallsOnlyAtFinalize : Prop :=
  ∀ (i : Instr) (s t : State), writesChcr i = false → i ≠ .runClear → exec i s = .next t →
    (t.r.chcr.run = true → s.r.chcr.run = true) ∧
    (s.r.chcr.run = true → t.r.chcr.run = false → pulses .completion t.trace = pulses .completion s.trace + 1)

/-- No step changes a parameter, takes back what a port has carried, or turns the clock back but by a reset
(00_scope.md R9; 10_state.md R70). -/
def Obligations.StepKeepsParametersAndRecord : Prop :=
  ∀ s t : State, step s = .next t → t.platform = s.platform ∧ s.trace <:+ t.trace ∧
    (s.h.now ≤ t.h.now ∨ ∃ rest, s.inputs = .move .reset :: rest)
end

