-- ==== Sys2Proof/Laws/State.lean ====
section
/-! SUPPORT. What each update of the state leaves as it is: one lemma per update and untouched field, for the simplifier. -/

namespace Sys2Proof.Machine

/-! ### emit -/

@[simp] theorem emit_r (e : TraceEvent) (s : State) : (emit e s).r = s.r := rfl
@[simp] theorem emit_v (e : TraceEvent) (s : State) : (emit e s).v = s.v := rfl
@[simp] theorem emit_t (e : TraceEvent) (s : State) : (emit e s).t = s.t := rfl
@[simp] theorem emit_p (e : TraceEvent) (s : State) : (emit e s).p = s.p := rfl
@[simp] theorem emit_g (e : TraceEvent) (s : State) : (emit e s).g = s.g := rfl
@[simp] theorem emit_h (e : TraceEvent) (s : State) : (emit e s).h = s.h := rfl
@[simp] theorem emit_mem (e : TraceEvent) (s : State) : (emit e s).mem = s.mem := rfl
@[simp] theorem emit_platform (e : TraceEvent) (s : State) : (emit e s).platform = s.platform := rfl
@[simp] theorem emit_env (e : TraceEvent) (s : State) : (emit e s).env = s.env := rfl
@[simp] theorem emit_inputs (e : TraceEvent) (s : State) : (emit e s).inputs = s.inputs := rfl
@[simp] theorem emit_hung (e : TraceEvent) (s : State) : (emit e s).hung = s.hung := rfl

/-! ### setStallFlag -/

@[simp] theorem setStallFlag_r (b : Bool) (s : State) : (setStallFlag b s).r = s.r := rfl
@[simp] theorem setStallFlag_v (b : Bool) (s : State) : (setStallFlag b s).v = s.v := rfl
@[simp] theorem setStallFlag_t (b : Bool) (s : State) : (setStallFlag b s).t = s.t := rfl
@[simp] theorem setStallFlag_p (b : Bool) (s : State) : (setStallFlag b s).p = s.p := rfl
@[simp] theorem setStallFlag_g (b : Bool) (s : State) : (setStallFlag b s).g = s.g := rfl
@[simp] theorem setStallFlag_mem (b : Bool) (s : State) : (setStallFlag b s).mem = s.mem := rfl
@[simp] theorem setStallFlag_platform (b : Bool) (s : State) : (setStallFlag b s).platform = s.platform := rfl
@[simp] theorem setStallFlag_env (b : Bool) (s : State) : (setStallFlag b s).env = s.env := rfl
@[simp] theorem setStallFlag_inputs (b : Bool) (s : State) : (setStallFlag b s).inputs = s.inputs := rfl
@[simp] theorem setStallFlag_hung (b : Bool) (s : State) : (setStallFlag b s).hung = s.hung := rfl

/-! ### scheduleEvent -/

@[simp] theorem scheduleEvent_r (ev : EventId) (d : Nat) (s : State) : (scheduleEvent ev d s).r = s.r := rfl
@[simp] theorem scheduleEvent_v (ev : EventId) (d : Nat) (s : State) : (scheduleEvent ev d s).v = s.v := rfl
@[simp] theorem scheduleEvent_t (ev : EventId) (d : Nat) (s : State) : (scheduleEvent ev d s).t = s.t := rfl
@[simp] theorem scheduleEvent_p (ev : EventId) (d : Nat) (s : State) : (scheduleEvent ev d s).p = s.p := rfl
@[simp] theorem scheduleEvent_g (ev : EventId) (d : Nat) (s : State) : (scheduleEvent ev d s).g = s.g := rfl
@[simp] theorem scheduleEvent_mem (ev : EventId) (d : Nat) (s : State) : (scheduleEvent ev d s).mem = s.mem := rfl
@[simp] theorem scheduleEvent_platform (ev : EventId) (d : Nat) (s : State) : (scheduleEvent ev d s).platform = s.platform := rfl
@[simp] theorem scheduleEvent_env (ev : EventId) (d : Nat) (s : State) : (scheduleEvent ev d s).env = s.env := rfl
@[simp] theorem scheduleEvent_inputs (ev : EventId) (d : Nat) (s : State) : (scheduleEvent ev d s).inputs = s.inputs := rfl
@[simp] theorem scheduleEvent_hung (ev : EventId) (d : Nat) (s : State) : (scheduleEvent ev d s).hung = s.hung := rfl

/-! ### raiseLine -/

@[simp] theorem raiseLine_r (c : IrqCause) (s : State) : (raiseLine c s).r = s.r := rfl
@[simp] theorem raiseLine_v (c : IrqCause) (s : State) : (raiseLine c s).v = s.v := rfl
@[simp] theorem raiseLine_t (c : IrqCause) (s : State) : (raiseLine c s).t = s.t := rfl
@[simp] theorem raiseLine_p (c : IrqCause) (s : State) : (raiseLine c s).p = s.p := rfl
@[simp] theorem raiseLine_g (c : IrqCause) (s : State) : (raiseLine c s).g = s.g := rfl
@[simp] theorem raiseLine_h (c : IrqCause) (s : State) : (raiseLine c s).h = s.h := rfl
@[simp] theorem raiseLine_mem (c : IrqCause) (s : State) : (raiseLine c s).mem = s.mem := rfl
@[simp] theorem raiseLine_platform (c : IrqCause) (s : State) : (raiseLine c s).platform = s.platform := rfl
@[simp] theorem raiseLine_env (c : IrqCause) (s : State) : (raiseLine c s).env = s.env := rfl
@[simp] theorem raiseLine_inputs (c : IrqCause) (s : State) : (raiseLine c s).inputs = s.inputs := rfl
@[simp] theorem raiseLine_hung (c : IrqCause) (s : State) : (raiseLine c s).hung = s.hung := rfl

/-! ### logMessage -/

@[simp] theorem logMessage_r (m : LogMessage) (s : State) : (logMessage m s).r = s.r := rfl
@[simp] theorem logMessage_v (m : LogMessage) (s : State) : (logMessage m s).v = s.v := rfl
@[simp] theorem logMessage_t (m : LogMessage) (s : State) : (logMessage m s).t = s.t := rfl
@[simp] theorem logMessage_p (m : LogMessage) (s : State) : (logMessage m s).p = s.p := rfl
@[simp] theorem logMessage_g (m : LogMessage) (s : State) : (logMessage m s).g = s.g := rfl
@[simp] theorem logMessage_h (m : LogMessage) (s : State) : (logMessage m s).h = s.h := rfl
@[simp] theorem logMessage_mem (m : LogMessage) (s : State) : (logMessage m s).mem = s.mem := rfl
@[simp] theorem logMessage_platform (m : LogMessage) (s : State) : (logMessage m s).platform = s.platform := rfl
@[simp] theorem logMessage_env (m : LogMessage) (s : State) : (logMessage m s).env = s.env := rfl
@[simp] theorem logMessage_inputs (m : LogMessage) (s : State) : (logMessage m s).inputs = s.inputs := rfl
@[simp] theorem logMessage_hung (m : LogMessage) (s : State) : (logMessage m s).hung = s.hung := rfl

/-! ### freshDraws -/

@[simp] theorem freshDraws_r (s : State) : (freshDraws s).r = s.r := rfl
@[simp] theorem freshDraws_v (s : State) : (freshDraws s).v = s.v := rfl
@[simp] theorem freshDraws_t (s : State) : (freshDraws s).t = s.t := rfl
@[simp] theorem freshDraws_p (s : State) : (freshDraws s).p = s.p := rfl
@[simp] theorem freshDraws_g (s : State) : (freshDraws s).g = s.g := rfl
@[simp] theorem freshDraws_h (s : State) : (freshDraws s).h = s.h := rfl
@[simp] theorem freshDraws_mem (s : State) : (freshDraws s).mem = s.mem := rfl
@[simp] theorem freshDraws_platform (s : State) : (freshDraws s).platform = s.platform := rfl
@[simp] theorem freshDraws_inputs (s : State) : (freshDraws s).inputs = s.inputs := rfl
@[simp] theorem freshDraws_hung (s : State) : (freshDraws s).hung = s.hung := rfl
@[simp] theorem freshDraws_trace (s : State) : (freshDraws s).trace = s.trace := rfl

/-! ### translate -/

@[simp] theorem translate_r (a : Word) (s : State) : ((translate a s).2).r = s.r := rfl
@[simp] theorem translate_v (a : Word) (s : State) : ((translate a s).2).v = s.v := rfl
@[simp] theorem translate_t (a : Word) (s : State) : ((translate a s).2).t = s.t := rfl
@[simp] theorem translate_p (a : Word) (s : State) : ((translate a s).2).p = s.p := rfl
@[simp] theorem translate_g (a : Word) (s : State) : ((translate a s).2).g = s.g := rfl
@[simp] theorem translate_h (a : Word) (s : State) : ((translate a s).2).h = s.h := rfl
@[simp] theorem translate_mem (a : Word) (s : State) : ((translate a s).2).mem = s.mem := rfl
@[simp] theorem translate_platform (a : Word) (s : State) : ((translate a s).2).platform = s.platform := rfl
@[simp] theorem translate_env (a : Word) (s : State) : ((translate a s).2).env = s.env := rfl
@[simp] theorem translate_inputs (a : Word) (s : State) : ((translate a s).2).inputs = s.inputs := rfl
@[simp] theorem translate_hung (a : Word) (s : State) : ((translate a s).2).hung = s.hung := rfl

/-! ### drawFetchStall -/

@[simp] theorem drawFetchStall_r (s : State) : ((drawFetchStall s).2).r = s.r := rfl
@[simp] theorem drawFetchStall_v (s : State) : ((drawFetchStall s).2).v = s.v := rfl
@[simp] theorem drawFetchStall_t (s : State) : ((drawFetchStall s).2).t = s.t := rfl
@[simp] theorem drawFetchStall_p (s : State) : ((drawFetchStall s).2).p = s.p := rfl
@[simp] theorem drawFetchStall_g (s : State) : ((drawFetchStall s).2).g = s.g := rfl
@[simp] theorem drawFetchStall_h (s : State) : ((drawFetchStall s).2).h = s.h := rfl
@[simp] theorem drawFetchStall_mem (s : State) : ((drawFetchStall s).2).mem = s.mem := rfl
@[simp] theorem drawFetchStall_platform (s : State) : ((drawFetchStall s).2).platform = s.platform := rfl
@[simp] theorem drawFetchStall_inputs (s : State) : ((drawFetchStall s).2).inputs = s.inputs := rfl
@[simp] theorem drawFetchStall_hung (s : State) : ((drawFetchStall s).2).hung = s.hung := rfl
@[simp] theorem drawFetchStall_trace (s : State) : ((drawFetchStall s).2).trace = s.trace := rfl

/-! ### applyEffects -/

@[simp] theorem applyEffects_r (fx : Effects) (s : State) : (applyEffects fx s).r = s.r := rfl
@[simp] theorem applyEffects_g (fx : Effects) (s : State) : (applyEffects fx s).g = s.g := rfl
@[simp] theorem applyEffects_h (fx : Effects) (s : State) : (applyEffects fx s).h = s.h := rfl
@[simp] theorem applyEffects_mem (fx : Effects) (s : State) : (applyEffects fx s).mem = s.mem := rfl
@[simp] theorem applyEffects_platform (fx : Effects) (s : State) : (applyEffects fx s).platform = s.platform := rfl
@[simp] theorem applyEffects_env (fx : Effects) (s : State) : (applyEffects fx s).env = s.env := rfl
@[simp] theorem applyEffects_inputs (fx : Effects) (s : State) : (applyEffects fx s).inputs = s.inputs := rfl
@[simp] theorem applyEffects_hung (fx : Effects) (s : State) : (applyEffects fx s).hung = s.hung := rfl
@[simp] theorem applyEffects_trace (fx : Effects) (s : State) : (applyEffects fx s).trace = s.trace := rfl

/-! ### applyStatusWrite -/

@[simp] theorem applyStatusWrite_r (w : StatusWrite) (s : State) : (applyStatusWrite w s).r = s.r := rfl
@[simp] theorem applyStatusWrite_v (w : StatusWrite) (s : State) : (applyStatusWrite w s).v = s.v := rfl
@[simp] theorem applyStatusWrite_h (w : StatusWrite) (s : State) : (applyStatusWrite w s).h = s.h := rfl
@[simp] theorem applyStatusWrite_mem (w : StatusWrite) (s : State) : (applyStatusWrite w s).mem = s.mem := rfl
@[simp] theorem applyStatusWrite_platform (w : StatusWrite) (s : State) : (applyStatusWrite w s).platform = s.platform := rfl
@[simp] theorem applyStatusWrite_env (w : StatusWrite) (s : State) : (applyStatusWrite w s).env = s.env := rfl
@[simp] theorem applyStatusWrite_inputs (w : StatusWrite) (s : State) : (applyStatusWrite w s).inputs = s.inputs := rfl
@[simp] theorem applyStatusWrite_hung (w : StatusWrite) (s : State) : (applyStatusWrite w s).hung = s.hung := rfl
@[simp] theorem applyStatusWrite_trace (w : StatusWrite) (s : State) : (applyStatusWrite w s).trace = s.trace := rfl

/-! ### executeBlock -/

@[simp] theorem executeBlock_t (s : State) : (executeBlock s).t = applyStatusFx (nextBlock s).status s.t := rfl
@[simp] theorem executeBlock_p (s : State) : (executeBlock s).p =
    { busy := s.p.busy && !(nextBlock s).clearBusy, stopped := s.p.stopped || (nextBlock s).setStopped,
      nextBlockCost := (nextBlock s).nextBlockCost, elapsedCycles := s.p.elapsedCycles + blockCost (nextBlock s) } := rfl
@[simp] theorem executeBlock_r (s : State) : (executeBlock s).r = s.r := rfl
@[simp] theorem executeBlock_v (s : State) : (executeBlock s).v = s.v := rfl
@[simp] theorem executeBlock_g (s : State) : (executeBlock s).g = s.g := rfl
@[simp] theorem executeBlock_h (s : State) : (executeBlock s).h = s.h := rfl
@[simp] theorem executeBlock_mem (s : State) : (executeBlock s).mem = s.mem := rfl
@[simp] theorem executeBlock_platform (s : State) : (executeBlock s).platform = s.platform := rfl
@[simp] theorem executeBlock_inputs (s : State) : (executeBlock s).inputs = s.inputs := rfl
@[simp] theorem executeBlock_hung (s : State) : (executeBlock s).hung = s.hung := rfl

/-! ### finishPass -/

@[simp] theorem finishPass_r (s : State) : (finishPass s).r = s.r := rfl
@[simp] theorem finishPass_v (s : State) : (finishPass s).v = s.v := rfl
@[simp] theorem finishPass_t (s : State) : (finishPass s).t = s.t := rfl
@[simp] theorem finishPass_p (s : State) : (finishPass s).p =
    { busy := false, stopped := (nextPass s).stopped.getD s.p.stopped,
      nextBlockCost := (nextPass s).nextBlockCost.getD s.p.nextBlockCost,
      elapsedCycles := s.p.elapsedCycles + (nextPass s).cost } := rfl
@[simp] theorem finishPass_g (s : State) : (finishPass s).g = s.g := rfl
@[simp] theorem finishPass_h (s : State) : (finishPass s).h = s.h := rfl
@[simp] theorem finishPass_mem (s : State) : (finishPass s).mem = s.mem := rfl
@[simp] theorem finishPass_platform (s : State) : (finishPass s).platform = s.platform := rfl
@[simp] theorem finishPass_inputs (s : State) : (finishPass s).inputs = s.inputs := rfl
@[simp] theorem finishPass_hung (s : State) : (finishPass s).hung = s.hung := rfl

/-! ### executeQueuedProgram -/

@[simp] theorem executeQueuedProgram_r (s : State) : (executeQueuedProgram s).r = s.r := rfl
@[simp] theorem executeQueuedProgram_v (s : State) : (executeQueuedProgram s).v =
    applyRuntimeFx (nextQueued s).fx { s.v with queuedProgramPending := false } := rfl
@[simp] theorem executeQueuedProgram_t (s : State) : (executeQueuedProgram s).t =
    applyStatusFx (nextQueued s).fx.status s.t := rfl
@[simp] theorem executeQueuedProgram_p (s : State) : (executeQueuedProgram s).p =
    applyCoprocFx (nextQueued s).fx.coproc { s.p with busy := s.p.busy || (nextQueued s).startsProgram } := rfl
@[simp] theorem executeQueuedProgram_g (s : State) : (executeQueuedProgram s).g = s.g := rfl
@[simp] theorem executeQueuedProgram_h (s : State) : (executeQueuedProgram s).h = s.h := rfl
@[simp] theorem executeQueuedProgram_mem (s : State) : (executeQueuedProgram s).mem = s.mem := rfl
@[simp] theorem executeQueuedProgram_platform (s : State) : (executeQueuedProgram s).platform = s.platform := rfl
@[simp] theorem executeQueuedProgram_inputs (s : State) : (executeQueuedProgram s).inputs = s.inputs := rfl
@[simp] theorem executeQueuedProgram_hung (s : State) : (executeQueuedProgram s).hung = s.hung := rfl

/-! ### kickoffPrepare -/

@[simp] theorem kickoffPrepare_r (s : State) : (kickoffPrepare s).r = s.r := rfl
@[simp] theorem kickoffPrepare_p (s : State) : (kickoffPrepare s).p = s.p := rfl
@[simp] theorem kickoffPrepare_g (s : State) : (kickoffPrepare s).g = s.g := rfl
@[simp] theorem kickoffPrepare_mem (s : State) : (kickoffPrepare s).mem = s.mem := rfl
@[simp] theorem kickoffPrepare_platform (s : State) : (kickoffPrepare s).platform = s.platform := rfl
@[simp] theorem kickoffPrepare_env (s : State) : (kickoffPrepare s).env = s.env := rfl
@[simp] theorem kickoffPrepare_inputs (s : State) : (kickoffPrepare s).inputs = s.inputs := rfl
@[simp] theorem kickoffPrepare_hung (s : State) : (kickoffPrepare s).hung = s.hung := rfl

/-! ### hostRead -/

@[simp] theorem hostRead_r (reg : Reg) (s : State) : (hostRead reg s).r = s.r := rfl
@[simp] theorem hostRead_v (reg : Reg) (s : State) : (hostRead reg s).v = s.v := rfl
@[simp] theorem hostRead_t (reg : Reg) (s : State) : (hostRead reg s).t = s.t := rfl
@[simp] theorem hostRead_p (reg : Reg) (s : State) : (hostRead reg s).p = s.p := rfl
@[simp] theorem hostRead_g (reg : Reg) (s : State) : (hostRead reg s).g = s.g := rfl
@[simp] theorem hostRead_h (reg : Reg) (s : State) : (hostRead reg s).h = s.h := rfl
@[simp] theorem hostRead_mem (reg : Reg) (s : State) : (hostRead reg s).mem = s.mem := rfl
@[simp] theorem hostRead_platform (reg : Reg) (s : State) : (hostRead reg s).platform = s.platform := rfl
@[simp] theorem hostRead_env (reg : Reg) (s : State) : (hostRead reg s).env = s.env := rfl
@[simp] theorem hostRead_inputs (reg : Reg) (s : State) : (hostRead reg s).inputs = s.inputs := rfl
@[simp] theorem hostRead_hung (reg : Reg) (s : State) : (hostRead reg s).hung = s.hung := rfl

/-! ### hostWrite -/

@[simp] theorem hostWrite_v (reg : Reg) (x : Word) (s : State) : (hostWrite reg x s).v = s.v := rfl
@[simp] theorem hostWrite_t (reg : Reg) (x : Word) (s : State) : (hostWrite reg x s).t = s.t := rfl
@[simp] theorem hostWrite_p (reg : Reg) (x : Word) (s : State) : (hostWrite reg x s).p = s.p := rfl
@[simp] theorem hostWrite_g (reg : Reg) (x : Word) (s : State) : (hostWrite reg x s).g = s.g := rfl
@[simp] theorem hostWrite_h (reg : Reg) (x : Word) (s : State) : (hostWrite reg x s).h = s.h := rfl
@[simp] theorem hostWrite_mem (reg : Reg) (x : Word) (s : State) : (hostWrite reg x s).mem = s.mem := rfl
@[simp] theorem hostWrite_platform (reg : Reg) (x : Word) (s : State) : (hostWrite reg x s).platform = s.platform := rfl
@[simp] theorem hostWrite_env (reg : Reg) (x : Word) (s : State) : (hostWrite reg x s).env = s.env := rfl
@[simp] theorem hostWrite_inputs (reg : Reg) (x : Word) (s : State) : (hostWrite reg x s).inputs = s.inputs := rfl
@[simp] theorem hostWrite_hung (reg : Reg) (x : Word) (s : State) : (hostWrite reg x s).hung = s.hung := rfl
@[simp] theorem hostWrite_trace (reg : Reg) (x : Word) (s : State) : (hostWrite reg x s).trace = s.trace := rfl

/-! ### loadTag -/

@[simp] theorem loadTag_t (k : TagKind) (f : TagFields) (s : State) : (loadTag k f s).t = s.t := rfl
@[simp] theorem loadTag_p (k : TagKind) (f : TagFields) (s : State) : (loadTag k f s).p = s.p := rfl
@[simp] theorem loadTag_g (k : TagKind) (f : TagFields) (s : State) : (loadTag k f s).g = s.g := rfl
@[simp] theorem loadTag_mem (k : TagKind) (f : TagFields) (s : State) : (loadTag k f s).mem = s.mem := rfl
@[simp] theorem loadTag_platform (k : TagKind) (f : TagFields) (s : State) : (loadTag k f s).platform = s.platform := rfl
@[simp] theorem loadTag_env (k : TagKind) (f : TagFields) (s : State) : (loadTag k f s).env = s.env := rfl
@[simp] theorem loadTag_inputs (k : TagKind) (f : TagFields) (s : State) : (loadTag k f s).inputs = s.inputs := rfl
@[simp] theorem loadTag_hung (k : TagKind) (f : TagFields) (s : State) : (loadTag k f s).hung = s.hung := rfl
@[simp] theorem loadTag_trace (k : TagKind) (f : TagFields) (s : State) : (loadTag k f s).trace = s.trace := rfl

/-! ### refuseTagData -/

@[simp] theorem refuseTagData_t (n : Nat) (s : State) : (refuseTagData n s).t = s.t := rfl
@[simp] theorem refuseTagData_p (n : Nat) (s : State) : (refuseTagData n s).p = s.p := rfl
@[simp] theorem refuseTagData_g (n : Nat) (s : State) : (refuseTagData n s).g = s.g := rfl
@[simp] theorem refuseTagData_h (n : Nat) (s : State) : (refuseTagData n s).h = s.h := rfl
@[simp] theorem refuseTagData_mem (n : Nat) (s : State) : (refuseTagData n s).mem = s.mem := rfl
@[simp] theorem refuseTagData_platform (n : Nat) (s : State) : (refuseTagData n s).platform = s.platform := rfl
@[simp] theorem refuseTagData_env (n : Nat) (s : State) : (refuseTagData n s).env = s.env := rfl
@[simp] theorem refuseTagData_inputs (n : Nat) (s : State) : (refuseTagData n s).inputs = s.inputs := rfl
@[simp] theorem refuseTagData_hung (n : Nat) (s : State) : (refuseTagData n s).hung = s.hung := rfl
@[simp] theorem refuseTagData_trace (n : Nat) (s : State) : (refuseTagData n s).trace = s.trace := rfl

/-! ### account -/

@[simp] theorem account_t (n : Nat) (s : State) : (account n s).t = s.t := rfl
@[simp] theorem account_p (n : Nat) (s : State) : (account n s).p = s.p := rfl
@[simp] theorem account_g (n : Nat) (s : State) : (account n s).g = s.g := rfl
@[simp] theorem account_mem (n : Nat) (s : State) : (account n s).mem = s.mem := rfl
@[simp] theorem account_platform (n : Nat) (s : State) : (account n s).platform = s.platform := rfl
@[simp] theorem account_env (n : Nat) (s : State) : (account n s).env = s.env := rfl
@[simp] theorem account_inputs (n : Nat) (s : State) : (account n s).inputs = s.inputs := rfl
@[simp] theorem account_hung (n : Nat) (s : State) : (account n s).hung = s.hung := rfl
@[simp] theorem account_trace (n : Nat) (s : State) : (account n s).trace = s.trace := rfl

/-! ### discardElement -/

@[simp] theorem discardElement_t (s : State) : (discardElement s).t = s.t := rfl
@[simp] theorem discardElement_p (s : State) : (discardElement s).p = s.p := rfl
@[simp] theorem discardElement_g (s : State) : (discardElement s).g = s.g := rfl
@[simp] theorem discardElement_h (s : State) : (discardElement s).h = s.h := rfl
@[simp] theorem discardElement_mem (s : State) : (discardElement s).mem = s.mem := rfl
@[simp] theorem discardElement_platform (s : State) : (discardElement s).platform = s.platform := rfl
@[simp] theorem discardElement_env (s : State) : (discardElement s).env = s.env := rfl
@[simp] theorem discardElement_inputs (s : State) : (discardElement s).inputs = s.inputs := rfl
@[simp] theorem discardElement_hung (s : State) : (discardElement s).hung = s.hung := rfl

/-! ### endAfter -/

@[simp] theorem endAfter_r (ev : EventId) (d : Nat) (s : State) : (endAfter ev d s).r = s.r := rfl
@[simp] theorem endAfter_v (ev : EventId) (d : Nat) (s : State) : (endAfter ev d s).v = s.v := rfl
@[simp] theorem endAfter_t (ev : EventId) (d : Nat) (s : State) : (endAfter ev d s).t = s.t := rfl
@[simp] theorem endAfter_p (ev : EventId) (d : Nat) (s : State) : (endAfter ev d s).p = s.p := rfl
@[simp] theorem endAfter_g (ev : EventId) (d : Nat) (s : State) : (endAfter ev d s).g = s.g := rfl
@[simp] theorem endAfter_mem (ev : EventId) (d : Nat) (s : State) : (endAfter ev d s).mem = s.mem := rfl
@[simp] theorem endAfter_platform (ev : EventId) (d : Nat) (s : State) : (endAfter ev d s).platform = s.platform := rfl
@[simp] theorem endAfter_env (ev : EventId) (d : Nat) (s : State) : (endAfter ev d s).env = s.env := rfl
@[simp] theorem endAfter_inputs (ev : EventId) (d : Nat) (s : State) : (endAfter ev d s).inputs = s.inputs := rfl
@[simp] theorem endAfter_hung (ev : EventId) (d : Nat) (s : State) : (endAfter ev d s).hung = s.hung := rfl

/-! ### endIdle -/

@[simp] theorem endIdle_r (s : State) : (endIdle s).r = s.r := rfl
@[simp] theorem endIdle_v (s : State) : (endIdle s).v = s.v := rfl
@[simp] theorem endIdle_t (s : State) : (endIdle s).t = s.t := rfl
@[simp] theorem endIdle_p (s : State) : (endIdle s).p = s.p := rfl
@[simp] theorem endIdle_g (s : State) : (endIdle s).g = s.g := rfl
@[simp] theorem endIdle_h (s : State) : (endIdle s).h = s.h := rfl
@[simp] theorem endIdle_mem (s : State) : (endIdle s).mem = s.mem := rfl
@[simp] theorem endIdle_platform (s : State) : (endIdle s).platform = s.platform := rfl
@[simp] theorem endIdle_env (s : State) : (endIdle s).env = s.env := rfl
@[simp] theorem endIdle_inputs (s : State) : (endIdle s).inputs = s.inputs := rfl
@[simp] theorem endIdle_hung (s : State) : (endIdle s).hung = s.hung := rfl

/-! ### deferToSync -/

@[simp] theorem deferToSync_r (s : State) : (deferToSync s).r = s.r := rfl
@[simp] theorem deferToSync_v (s : State) : (deferToSync s).v = s.v := rfl
@[simp] theorem deferToSync_t (s : State) : (deferToSync s).t = s.t := rfl
@[simp] theorem deferToSync_p (s : State) : (deferToSync s).p = s.p := rfl
@[simp] theorem deferToSync_g (s : State) : (deferToSync s).g = s.g := rfl
@[simp] theorem deferToSync_mem (s : State) : (deferToSync s).mem = s.mem := rfl
@[simp] theorem deferToSync_platform (s : State) : (deferToSync s).platform = s.platform := rfl
@[simp] theorem deferToSync_env (s : State) : (deferToSync s).env = s.env := rfl
@[simp] theorem deferToSync_inputs (s : State) : (deferToSync s).inputs = s.inputs := rfl
@[simp] theorem deferToSync_hung (s : State) : (deferToSync s).hung = s.hung := rfl

/-! ### signalIrq -/

@[simp] theorem signalIrq_r (s : State) : (signalIrq s).r = s.r := rfl
@[simp] theorem signalIrq_p (s : State) : (signalIrq s).p = s.p := rfl
@[simp] theorem signalIrq_g (s : State) : (signalIrq s).g = s.g := rfl
@[simp] theorem signalIrq_h (s : State) : (signalIrq s).h = s.h := rfl
@[simp] theorem signalIrq_mem (s : State) : (signalIrq s).mem = s.mem := rfl
@[simp] theorem signalIrq_platform (s : State) : (signalIrq s).platform = s.platform := rfl
@[simp] theorem signalIrq_env (s : State) : (signalIrq s).env = s.env := rfl
@[simp] theorem signalIrq_inputs (s : State) : (signalIrq s).inputs = s.inputs := rfl
@[simp] theorem signalIrq_hung (s : State) : (signalIrq s).hung = s.hung := rfl

/-! ### suspend -/

@[simp] theorem suspend_r (s : State) : (suspend s).r = s.r := rfl
@[simp] theorem suspend_v (s : State) : (suspend s).v = s.v := rfl
@[simp] theorem suspend_p (s : State) : (suspend s).p = s.p := rfl
@[simp] theorem suspend_g (s : State) : (suspend s).g = s.g := rfl
@[simp] theorem suspend_mem (s : State) : (suspend s).mem = s.mem := rfl
@[simp] theorem suspend_platform (s : State) : (suspend s).platform = s.platform := rfl
@[simp] theorem suspend_env (s : State) : (suspend s).env = s.env := rfl
@[simp] theorem suspend_inputs (s : State) : (suspend s).inputs = s.inputs := rfl
@[simp] theorem suspend_hung (s : State) : (suspend s).hung = s.hung := rfl

/-! ### clearStall -/

@[simp] theorem clearStall_r (s : State) : (clearStall s).r = s.r := rfl
@[simp] theorem clearStall_p (s : State) : (clearStall s).p = s.p := rfl
@[simp] theorem clearStall_g (s : State) : (clearStall s).g = s.g := rfl
@[simp] theorem clearStall_h (s : State) : (clearStall s).h = s.h := rfl
@[simp] theorem clearStall_mem (s : State) : (clearStall s).mem = s.mem := rfl
@[simp] theorem clearStall_platform (s : State) : (clearStall s).platform = s.platform := rfl
@[simp] theorem clearStall_env (s : State) : (clearStall s).env = s.env := rfl
@[simp] theorem clearStall_inputs (s : State) : (clearStall s).inputs = s.inputs := rfl
@[simp] theorem clearStall_hung (s : State) : (clearStall s).hung = s.hung := rfl
@[simp] theorem clearStall_trace (s : State) : (clearStall s).trace = s.trace := rfl

/-! ### reschedule -/

@[simp] theorem reschedule_r (s : State) : (reschedule s).r = s.r := rfl
@[simp] theorem reschedule_v (s : State) : (reschedule s).v = s.v := rfl
@[simp] theorem reschedule_p (s : State) : (reschedule s).p = s.p := rfl
@[simp] theorem reschedule_g (s : State) : (reschedule s).g = s.g := rfl
@[simp] theorem reschedule_mem (s : State) : (reschedule s).mem = s.mem := rfl
@[simp] theorem reschedule_platform (s : State) : (reschedule s).platform = s.platform := rfl
@[simp] theorem reschedule_env (s : State) : (reschedule s).env = s.env := rfl
@[simp] theorem reschedule_inputs (s : State) : (reschedule s).inputs = s.inputs := rfl
@[simp] theorem reschedule_hung (s : State) : (reschedule s).hung = s.hung := rfl

/-! ### hang -/

@[simp] theorem hang_r (s : State) : (hang s).r = s.r := rfl
@[simp] theorem hang_v (s : State) : (hang s).v = s.v := rfl
@[simp] theorem hang_t (s : State) : (hang s).t = s.t := rfl
@[simp] theorem hang_p (s : State) : (hang s).p = s.p := rfl
@[simp] theorem hang_g (s : State) : (hang s).g = s.g := rfl
@[simp] theorem hang_h (s : State) : (hang s).h = s.h := rfl
@[simp] theorem hang_mem (s : State) : (hang s).mem = s.mem := rfl
@[simp] theorem hang_platform (s : State) : (hang s).platform = s.platform := rfl
@[simp] theorem hang_env (s : State) : (hang s).env = s.env := rfl
@[simp] theorem hang_inputs (s : State) : (hang s).inputs = s.inputs := rfl
@[simp] theorem hang_trace (s : State) : (hang s).trace = s.trace := rfl
@[simp] theorem hang_hung (s : State) : (hang s).hung = true := rfl

/-! ### recheck -/

@[simp] theorem recheck_r (s : State) : (recheck s).r = s.r := rfl
@[simp] theorem recheck_v (s : State) : (recheck s).v = s.v := rfl
@[simp] theorem recheck_t (s : State) : (recheck s).t = s.t := rfl
@[simp] theorem recheck_p (s : State) : (recheck s).p = s.p := rfl
@[simp] theorem recheck_g (s : State) : (recheck s).g = s.g := rfl
@[simp] theorem recheck_mem (s : State) : (recheck s).mem = s.mem := rfl
@[simp] theorem recheck_platform (s : State) : (recheck s).platform = s.platform := rfl
@[simp] theorem recheck_env (s : State) : (recheck s).env = s.env := rfl
@[simp] theorem recheck_inputs (s : State) : (recheck s).inputs = s.inputs := rfl
@[simp] theorem recheck_hung (s : State) : (recheck s).hung = s.hung := rfl

/-! ### clearRun -/

@[simp] theorem clearRun_v (s : State) : (clearRun s).v = s.v := rfl
@[simp] theorem clearRun_t (s : State) : (clearRun s).t = s.t := rfl
@[simp] theorem clearRun_p (s : State) : (clearRun s).p = s.p := rfl
@[simp] theorem clearRun_g (s : State) : (clearRun s).g = s.g := rfl
@[simp] theorem clearRun_h (s : State) : (clearRun s).h = s.h := rfl
@[simp] theorem clearRun_mem (s : State) : (clearRun s).mem = s.mem := rfl
@[simp] theorem clearRun_platform (s : State) : (clearRun s).platform = s.platform := rfl
@[simp] theorem clearRun_env (s : State) : (clearRun s).env = s.env := rfl
@[simp] theorem clearRun_inputs (s : State) : (clearRun s).inputs = s.inputs := rfl
@[simp] theorem clearRun_hung (s : State) : (clearRun s).hung = s.hung := rfl
@[simp] theorem clearRun_trace (s : State) : (clearRun s).trace = s.trace := rfl

/-! ### forceStop -/

@[simp] theorem forceStop_r (s : State) : (forceStop s).r = s.r := rfl
@[simp] theorem forceStop_v (s : State) : (forceStop s).v = s.v := rfl
@[simp] theorem forceStop_t (s : State) : (forceStop s).t = s.t := rfl
@[simp] theorem forceStop_p (s : State) : (forceStop s).p = s.p := rfl
@[simp] theorem forceStop_h (s : State) : (forceStop s).h = s.h := rfl
@[simp] theorem forceStop_mem (s : State) : (forceStop s).mem = s.mem := rfl
@[simp] theorem forceStop_platform (s : State) : (forceStop s).platform = s.platform := rfl
@[simp] theorem forceStop_env (s : State) : (forceStop s).env = s.env := rfl
@[simp] theorem forceStop_inputs (s : State) : (forceStop s).inputs = s.inputs := rfl
@[simp] theorem forceStop_hung (s : State) : (forceStop s).hung = s.hung := rfl
@[simp] theorem forceStop_trace (s : State) : (forceStop s).trace = s.trace := rfl

/-! ### resetBlock -/

@[simp] theorem resetBlock_mem (s : State) : (resetBlock s).mem = s.mem := rfl
@[simp] theorem resetBlock_platform (s : State) : (resetBlock s).platform = s.platform := rfl
@[simp] theorem resetBlock_inputs (s : State) : (resetBlock s).inputs = s.inputs := rfl
@[simp] theorem resetBlock_hung (s : State) : (resetBlock s).hung = s.hung := rfl
@[simp] theorem resetBlock_trace (s : State) : (resetBlock s).trace = s.trace := rfl

/-! ### advanceClock -/

@[simp] theorem advanceClock_r (n : Nat) (s : State) : (advanceClock n s).r = s.r := rfl
@[simp] theorem advanceClock_v (n : Nat) (s : State) : (advanceClock n s).v = s.v := rfl
@[simp] theorem advanceClock_t (n : Nat) (s : State) : (advanceClock n s).t = s.t := rfl
@[simp] theorem advanceClock_p (n : Nat) (s : State) : (advanceClock n s).p = s.p := rfl
@[simp] theorem advanceClock_g (n : Nat) (s : State) : (advanceClock n s).g = s.g := rfl
@[simp] theorem advanceClock_mem (n : Nat) (s : State) : (advanceClock n s).mem = s.mem := rfl
@[simp] theorem advanceClock_platform (n : Nat) (s : State) : (advanceClock n s).platform = s.platform := rfl
@[simp] theorem advanceClock_env (n : Nat) (s : State) : (advanceClock n s).env = s.env := rfl
@[simp] theorem advanceClock_inputs (n : Nat) (s : State) : (advanceClock n s).inputs = s.inputs := rfl
@[simp] theorem advanceClock_hung (n : Nat) (s : State) : (advanceClock n s).hung = s.hung := rfl
@[simp] theorem advanceClock_trace (n : Nat) (s : State) : (advanceClock n s).trace = s.trace := rfl

/-! ### unpack -/

@[simp] theorem unpack_r (ws : List Word) (n : Nat) (b : Bool) (s : State) : ((unpack ws n b s).2).r = s.r := by
  unfold unpack; dsimp only; split <;> rfl
@[simp] theorem unpack_g (ws : List Word) (n : Nat) (b : Bool) (s : State) : ((unpack ws n b s).2).g = s.g := by
  unfold unpack; dsimp only; split <;> rfl
@[simp] theorem unpack_h (ws : List Word) (n : Nat) (b : Bool) (s : State) : ((unpack ws n b s).2).h = s.h := by
  unfold unpack; dsimp only; split <;> rfl
@[simp] theorem unpack_mem (ws : List Word) (n : Nat) (b : Bool) (s : State) : ((unpack ws n b s).2).mem = s.mem := by
  unfold unpack; dsimp only; split <;> rfl
@[simp] theorem unpack_platform (ws : List Word) (n : Nat) (b : Bool) (s : State) : ((unpack ws n b s).2).platform = s.platform := by
  unfold unpack; dsimp only; split <;> rfl
@[simp] theorem unpack_inputs (ws : List Word) (n : Nat) (b : Bool) (s : State) : ((unpack ws n b s).2).inputs = s.inputs := by
  unfold unpack; dsimp only; split <;> rfl
@[simp] theorem unpack_hung (ws : List Word) (n : Nat) (b : Bool) (s : State) : ((unpack ws n b s).2).hung = s.hung := by
  unfold unpack; dsimp only; split <;> rfl

/-! ### fetchTag -/

@[simp] theorem fetchTag_r (a : Word) (s : State) : ((fetchTag a s).2).r = s.r := by
  unfold fetchTag fetchStalled; dsimp only; split
  · rfl
  · split <;> rfl
@[simp] theorem fetchTag_v (a : Word) (s : State) : ((fetchTag a s).2).v = s.v := by
  unfold fetchTag fetchStalled; dsimp only; split
  · rfl
  · split <;> rfl
@[simp] theorem fetchTag_t (a : Word) (s : State) : ((fetchTag a s).2).t = s.t := by
  unfold fetchTag fetchStalled; dsimp only; split
  · rfl
  · split <;> rfl
@[simp] theorem fetchTag_p (a : Word) (s : State) : ((fetchTag a s).2).p = s.p := by
  unfold fetchTag fetchStalled; dsimp only; split
  · rfl
  · split <;> rfl
@[simp] theorem fetchTag_g (a : Word) (s : State) : ((fetchTag a s).2).g = s.g := by
  unfold fetchTag fetchStalled; dsimp only; split
  · rfl
  · split <;> rfl
@[simp] theorem fetchTag_h (a : Word) (s : State) : ((fetchTag a s).2).h = s.h := by
  unfold fetchTag fetchStalled; dsimp only; split
  · rfl
  · split <;> rfl
@[simp] theorem fetchTag_mem (a : Word) (s : State) : ((fetchTag a s).2).mem = s.mem := by
  unfold fetchTag fetchStalled; dsimp only; split
  · rfl
  · split <;> rfl
@[simp] theorem fetchTag_platform (a : Word) (s : State) : ((fetchTag a s).2).platform = s.platform := by
  unfold fetchTag fetchStalled; dsimp only; split
  · rfl
  · split <;> rfl
@[simp] theorem fetchTag_inputs (a : Word) (s : State) : ((fetchTag a s).2).inputs = s.inputs := by
  unfold fetchTag fetchStalled; dsimp only; split
  · rfl
  · split <;> rfl
@[simp] theorem fetchTag_hung (a : Word) (s : State) : ((fetchTag a s).2).hung = s.hung := by
  unfold fetchTag fetchStalled; dsimp only; split
  · rfl
  · split <;> rfl

/-! ### noteStack -/

@[simp] theorem noteStack_r (k : TagKind) (s : State) : (noteStack k s).r = s.r := by
  unfold noteStack; split <;> rfl
@[simp] theorem noteStack_v (k : TagKind) (s : State) : (noteStack k s).v = s.v := by
  unfold noteStack; split <;> rfl
@[simp] theorem noteStack_t (k : TagKind) (s : State) : (noteStack k s).t = s.t := by
  unfold noteStack; split <;> rfl
@[simp] theorem noteStack_p (k : TagKind) (s : State) : (noteStack k s).p = s.p := by
  unfold noteStack; split <;> rfl
@[simp] theorem noteStack_g (k : TagKind) (s : State) : (noteStack k s).g = s.g := by
  unfold noteStack; split <;> rfl
@[simp] theorem noteStack_h (k : TagKind) (s : State) : (noteStack k s).h = s.h := by
  unfold noteStack; split <;> rfl
@[simp] theorem noteStack_mem (k : TagKind) (s : State) : (noteStack k s).mem = s.mem := by
  unfold noteStack; split <;> rfl
@[simp] theorem noteStack_platform (k : TagKind) (s : State) : (noteStack k s).platform = s.platform := by
  unfold noteStack; split <;> rfl
@[simp] theorem noteStack_env (k : TagKind) (s : State) : (noteStack k s).env = s.env := by
  unfold noteStack; split <;> rfl
@[simp] theorem noteStack_inputs (k : TagKind) (s : State) : (noteStack k s).inputs = s.inputs := by
  unfold noteStack; split <;> rfl
@[simp] theorem noteStack_hung (k : TagKind) (s : State) : (noteStack k s).hung = s.hung := by
  unfold noteStack; split <;> rfl

/-! ### chainAdvance -/

@[simp] theorem chainAdvance_v (k : TagKind) (s : State) : ((chainAdvance k s).2).v = s.v := by
  simp [chainAdvance]
@[simp] theorem chainAdvance_t (k : TagKind) (s : State) : ((chainAdvance k s).2).t = s.t := by
  simp [chainAdvance]
@[simp] theorem chainAdvance_p (k : TagKind) (s : State) : ((chainAdvance k s).2).p = s.p := by
  simp [chainAdvance]
@[simp] theorem chainAdvance_g (k : TagKind) (s : State) : ((chainAdvance k s).2).g = s.g := by
  simp [chainAdvance]
@[simp] theorem chainAdvance_h (k : TagKind) (s : State) : ((chainAdvance k s).2).h = s.h := by
  simp [chainAdvance]
@[simp] theorem chainAdvance_mem (k : TagKind) (s : State) : ((chainAdvance k s).2).mem = s.mem := by
  simp [chainAdvance]
@[simp] theorem chainAdvance_platform (k : TagKind) (s : State) : ((chainAdvance k s).2).platform = s.platform := by
  simp [chainAdvance]
@[simp] theorem chainAdvance_env (k : TagKind) (s : State) : ((chainAdvance k s).2).env = s.env := by
  simp [chainAdvance]
@[simp] theorem chainAdvance_inputs (k : TagKind) (s : State) : ((chainAdvance k s).2).inputs = s.inputs := by
  simp [chainAdvance]
@[simp] theorem chainAdvance_hung (k : TagKind) (s : State) : ((chainAdvance k s).2).hung = s.hung := by
  simp [chainAdvance]

/-! ### armResume -/

@[simp] theorem armResume_r (s : State) : (armResume s).r = s.r := by
  unfold armResume; split <;> rfl
@[simp] theorem armResume_t (s : State) : (armResume s).t = s.t := by
  unfold armResume; split <;> rfl
@[simp] theorem armResume_p (s : State) : (armResume s).p = s.p := by
  unfold armResume; split <;> rfl
@[simp] theorem armResume_g (s : State) : (armResume s).g = s.g := by
  unfold armResume; split <;> rfl
@[simp] theorem armResume_h (s : State) : (armResume s).h = s.h := by
  unfold armResume; split <;> rfl
@[simp] theorem armResume_mem (s : State) : (armResume s).mem = s.mem := by
  unfold armResume; split <;> rfl
@[simp] theorem armResume_platform (s : State) : (armResume s).platform = s.platform := by
  unfold armResume; split <;> rfl
@[simp] theorem armResume_env (s : State) : (armResume s).env = s.env := by
  unfold armResume; split <;> rfl
@[simp] theorem armResume_inputs (s : State) : (armResume s).inputs = s.inputs := by
  unfold armResume; split <;> rfl
@[simp] theorem armResume_hung (s : State) : (armResume s).hung = s.hung := by
  unfold armResume; split <;> rfl
@[simp] theorem armResume_trace (s : State) : (armResume s).trace = s.trace := by
  unfold armResume; split <;> rfl

/-! ### completeTag -/

@[simp] theorem completeTag_t (k : TagKind) (f : TagFields) (s : State) : (completeTag k f s).t = s.t := by
  simp [completeTag]
@[simp] theorem completeTag_p (k : TagKind) (f : TagFields) (s : State) : (completeTag k f s).p = s.p := by
  simp [completeTag]
@[simp] theorem completeTag_g (k : TagKind) (f : TagFields) (s : State) : (completeTag k f s).g = s.g := by
  simp [completeTag]
@[simp] theorem completeTag_h (k : TagKind) (f : TagFields) (s : State) : (completeTag k f s).h = s.h := by
  simp [completeTag]
@[simp] theorem completeTag_mem (k : TagKind) (f : TagFields) (s : State) : (completeTag k f s).mem = s.mem := by
  simp [completeTag]
@[simp] theorem completeTag_platform (k : TagKind) (f : TagFields) (s : State) : (completeTag k f s).platform = s.platform := by
  simp [completeTag]
@[simp] theorem completeTag_env (k : TagKind) (f : TagFields) (s : State) : (completeTag k f s).env = s.env := by
  simp [completeTag]
@[simp] theorem completeTag_inputs (k : TagKind) (f : TagFields) (s : State) : (completeTag k f s).inputs = s.inputs := by
  simp [completeTag]
@[simp] theorem completeTag_hung (k : TagKind) (f : TagFields) (s : State) : (completeTag k f s).hung = s.hung := by
  simp [completeTag]

/-! ### feedTagData -/

@[simp] theorem feedTagData_g (k : TagKind) (f : TagFields) (s : State) : (feedTagData k f s).g = s.g := by
  unfold feedTagData; dsimp only; split <;> simp
@[simp] theorem feedTagData_mem (k : TagKind) (f : TagFields) (s : State) : (feedTagData k f s).mem = s.mem := by
  unfold feedTagData; dsimp only; split <;> simp
@[simp] theorem feedTagData_platform (k : TagKind) (f : TagFields) (s : State) : (feedTagData k f s).platform = s.platform := by
  unfold feedTagData; dsimp only; split <;> simp
@[simp] theorem feedTagData_inputs (k : TagKind) (f : TagFields) (s : State) : (feedTagData k f s).inputs = s.inputs := by
  unfold feedTagData; dsimp only; split <;> simp
@[simp] theorem feedTagData_hung (k : TagKind) (f : TagFields) (s : State) : (feedTagData k f s).hung = s.hung := by
  unfold feedTagData; dsimp only; split <;> simp

/-! ### consumeTag -/

@[simp] theorem consumeTag_g (k : TagKind) (f : TagFields) (s : State) : (consumeTag k f s).g = s.g := by
  unfold consumeTag; split <;> simp
@[simp] theorem consumeTag_mem (k : TagKind) (f : TagFields) (s : State) : (consumeTag k f s).mem = s.mem := by
  unfold consumeTag; split <;> simp
@[simp] theorem consumeTag_platform (k : TagKind) (f : TagFields) (s : State) : (consumeTag k f s).platform = s.platform := by
  unfold consumeTag; split <;> simp
@[simp] theorem consumeTag_inputs (k : TagKind) (f : TagFields) (s : State) : (consumeTag k f s).inputs = s.inputs := by
  unfold consumeTag; split <;> simp
@[simp] theorem consumeTag_hung (k : TagKind) (f : TagFields) (s : State) : (consumeTag k f s).hung = s.hung := by
  unfold consumeTag; split <;> simp

/-! ### feedElement -/

@[simp] theorem feedElement_g (s : State) : ((feedElement s).2).g = s.g := by
  simp [feedElement]
@[simp] theorem feedElement_mem (s : State) : ((feedElement s).2).mem = s.mem := by
  simp [feedElement]
@[simp] theorem feedElement_platform (s : State) : ((feedElement s).2).platform = s.platform := by
  simp [feedElement]
@[simp] theorem feedElement_inputs (s : State) : ((feedElement s).2).inputs = s.inputs := by
  simp [feedElement]
@[simp] theorem feedElement_hung (s : State) : ((feedElement s).2).hung = s.hung := by
  simp [feedElement]

/-! ### openStep -/

@[simp] theorem openStep_r (s : State) : (openStep s).r = s.r := by
  unfold openStep; dsimp only; split <;> rfl
@[simp] theorem openStep_v (s : State) : (openStep s).v = s.v := by
  unfold openStep; dsimp only; split <;> rfl
@[simp] theorem openStep_p (s : State) : (openStep s).p = s.p := by
  unfold openStep; dsimp only; split <;> rfl
@[simp] theorem openStep_g (s : State) : (openStep s).g = s.g := by
  unfold openStep; dsimp only; split <;> rfl
@[simp] theorem openStep_mem (s : State) : (openStep s).mem = s.mem := by
  unfold openStep; dsimp only; split <;> rfl
@[simp] theorem openStep_platform (s : State) : (openStep s).platform = s.platform := by
  unfold openStep; dsimp only; split <;> rfl
@[simp] theorem openStep_env (s : State) : (openStep s).env = s.env := by
  unfold openStep; dsimp only; split <;> rfl
@[simp] theorem openStep_inputs (s : State) : (openStep s).inputs = s.inputs := by
  unfold openStep; dsimp only; split <;> rfl
@[simp] theorem openStep_hung (s : State) : (openStep s).hung = s.hung := by
  unfold openStep; dsimp only; split <;> rfl

/-! ### notePeerPath -/

@[simp] theorem notePeerPath_r (s : State) : (notePeerPath s).r = s.r := by
  unfold notePeerPath; split <;> rfl
@[simp] theorem notePeerPath_v (s : State) : (notePeerPath s).v = s.v := by
  unfold notePeerPath; split <;> rfl
@[simp] theorem notePeerPath_t (s : State) : (notePeerPath s).t = s.t := by
  unfold notePeerPath; split <;> rfl
@[simp] theorem notePeerPath_p (s : State) : (notePeerPath s).p = s.p := by
  unfold notePeerPath; split <;> rfl
@[simp] theorem notePeerPath_g (s : State) : (notePeerPath s).g = s.g := by
  unfold notePeerPath; split <;> rfl
@[simp] theorem notePeerPath_h (s : State) : (notePeerPath s).h = s.h := by
  unfold notePeerPath; split <;> rfl
@[simp] theorem notePeerPath_mem (s : State) : (notePeerPath s).mem = s.mem := by
  unfold notePeerPath; split <;> rfl
@[simp] theorem notePeerPath_platform (s : State) : (notePeerPath s).platform = s.platform := by
  unfold notePeerPath; split <;> rfl
@[simp] theorem notePeerPath_env (s : State) : (notePeerPath s).env = s.env := by
  unfold notePeerPath; split <;> rfl
@[simp] theorem notePeerPath_inputs (s : State) : (notePeerPath s).inputs = s.inputs := by
  unfold notePeerPath; split <;> rfl
@[simp] theorem notePeerPath_hung (s : State) : (notePeerPath s).hung = s.hung := by
  unfold notePeerPath; split <;> rfl

/-! ### runQueued -/

@[simp] theorem runQueued_r (s : State) : (runQueued s).r = s.r := by
  unfold runQueued; split <;> simp
@[simp] theorem runQueued_g (s : State) : (runQueued s).g = s.g := by
  unfold runQueued; split <;> simp
@[simp] theorem runQueued_h (s : State) : (runQueued s).h = s.h := by
  unfold runQueued; split <;> simp
@[simp] theorem runQueued_mem (s : State) : (runQueued s).mem = s.mem := by
  unfold runQueued; split <;> simp
@[simp] theorem runQueued_platform (s : State) : (runQueued s).platform = s.platform := by
  unfold runQueued; split <;> simp
@[simp] theorem runQueued_inputs (s : State) : (runQueued s).inputs = s.inputs := by
  unfold runQueued; split <;> simp
@[simp] theorem runQueued_hung (s : State) : (runQueued s).hung = s.hung := by
  unfold runQueued; split <;> simp

/-! ### closeRun, signalCompletion -/

@[simp] theorem closeRun_t (s : State) : (closeRun s).t = s.t := rfl
@[simp] theorem closeRun_p (s : State) : (closeRun s).p = s.p := rfl
@[simp] theorem closeRun_g (s : State) : (closeRun s).g = s.g := rfl
@[simp] theorem closeRun_h (s : State) : (closeRun s).h = s.h := rfl
@[simp] theorem closeRun_mem (s : State) : (closeRun s).mem = s.mem := rfl
@[simp] theorem closeRun_platform (s : State) : (closeRun s).platform = s.platform := rfl
@[simp] theorem closeRun_env (s : State) : (closeRun s).env = s.env := rfl
@[simp] theorem closeRun_inputs (s : State) : (closeRun s).inputs = s.inputs := rfl
@[simp] theorem closeRun_hung (s : State) : (closeRun s).hung = s.hung := rfl
@[simp] theorem closeRun_trace (s : State) : (closeRun s).trace = s.trace := rfl
@[simp] theorem closeRun_r (s : State) : (closeRun s).r = { s.r with chcr := { s.r.chcr with run := false } } := rfl
@[simp] theorem closeRun_v (s : State) : (closeRun s).v = { s.v with
    stall := { s.v.stall with enabled := false }
    resumeOffset := { s.v.resumeOffset with enabled := false } } := rfl
@[simp] theorem signalCompletion_r (s : State) : (signalCompletion s).r = s.r := rfl
@[simp] theorem signalCompletion_v (s : State) : (signalCompletion s).v = s.v := rfl
@[simp] theorem signalCompletion_p (s : State) : (signalCompletion s).p = s.p := rfl
@[simp] theorem signalCompletion_g (s : State) : (signalCompletion s).g = s.g := rfl
@[simp] theorem signalCompletion_mem (s : State) : (signalCompletion s).mem = s.mem := rfl
@[simp] theorem signalCompletion_platform (s : State) : (signalCompletion s).platform = s.platform := rfl
@[simp] theorem signalCompletion_env (s : State) : (signalCompletion s).env = s.env := rfl
@[simp] theorem signalCompletion_inputs (s : State) : (signalCompletion s).inputs = s.inputs := rfl
@[simp] theorem signalCompletion_hung (s : State) : (signalCompletion s).hung = s.hung := rfl
@[simp] theorem signalCompletion_t (s : State) : (signalCompletion s).t = { s.t with queueDepth := 0 } := rfl
@[simp] theorem signalCompletion_h (s : State) : (signalCompletion s).h = { s.h with cycles := 0, stallInd := false } := rfl
@[simp] theorem signalCompletion_trace (s : State) : (signalCompletion s).trace =
    .setStallFlag false :: .raiseLine .completion :: s.trace := rfl

/-! ### finalize -/

@[simp] theorem finalize_g (s : State) : (finalize s).g = s.g := by
  simp [finalize]
@[simp] theorem finalize_mem (s : State) : (finalize s).mem = s.mem := by
  simp [finalize]
@[simp] theorem finalize_platform (s : State) : (finalize s).platform = s.platform := by
  simp [finalize]
@[simp] theorem finalize_inputs (s : State) : (finalize s).inputs = s.inputs := by
  simp [finalize]
@[simp] theorem finalize_hung (s : State) : (finalize s).hung = s.hung := by
  simp [finalize]
@[simp] theorem finalize_r (s : State) : (finalize s).r = { s.r with chcr := { s.r.chcr with run := false } } := by
  simp [finalize]
@[simp] theorem finalize_h (s : State) : (finalize s).h = { s.h with cycles := 0, stallInd := false } := by
  simp [finalize]

/-! ### openRun -/

@[simp] theorem openRun_r (s : State) : (openRun s).r = s.r := by
  unfold openRun; split <;> simp
@[simp] theorem openRun_p (s : State) : (openRun s).p = s.p := by
  unfold openRun; split <;> simp
@[simp] theorem openRun_g (s : State) : (openRun s).g = s.g := by
  unfold openRun; split <;> simp
@[simp] theorem openRun_mem (s : State) : (openRun s).mem = s.mem := by
  unfold openRun; split <;> simp
@[simp] theorem openRun_platform (s : State) : (openRun s).platform = s.platform := by
  unfold openRun; split <;> simp
@[simp] theorem openRun_env (s : State) : (openRun s).env = s.env := by
  unfold openRun; split <;> simp
@[simp] theorem openRun_inputs (s : State) : (openRun s).inputs = s.inputs := by
  unfold openRun; split <;> simp
@[simp] theorem openRun_hung (s : State) : (openRun s).hung = s.hung := by
  unfold openRun; split <;> simp

/-! ### deliver -/

@[simp] theorem deliver_r (ev : EventId) (s : State) : (deliver ev s).r = s.r := by
  unfold deliver; split <;> rfl
@[simp] theorem deliver_v (ev : EventId) (s : State) : (deliver ev s).v = s.v := by
  unfold deliver; split <;> rfl
@[simp] theorem deliver_t (ev : EventId) (s : State) : (deliver ev s).t = s.t := by
  unfold deliver; split <;> rfl
@[simp] theorem deliver_p (ev : EventId) (s : State) : (deliver ev s).p = s.p := by
  unfold deliver; split <;> rfl
@[simp] theorem deliver_g (ev : EventId) (s : State) : (deliver ev s).g = s.g := by
  unfold deliver; split <;> rfl
@[simp] theorem deliver_mem (ev : EventId) (s : State) : (deliver ev s).mem = s.mem := by
  unfold deliver; split <;> rfl
@[simp] theorem deliver_platform (ev : EventId) (s : State) : (deliver ev s).platform = s.platform := by
  unfold deliver; split <;> rfl
@[simp] theorem deliver_env (ev : EventId) (s : State) : (deliver ev s).env = s.env := by
  unfold deliver; split <;> rfl
@[simp] theorem deliver_inputs (ev : EventId) (s : State) : (deliver ev s).inputs = s.inputs := by
  unfold deliver; split <;> rfl
@[simp] theorem deliver_hung (ev : EventId) (s : State) : (deliver ev s).hung = s.hung := by
  unfold deliver; split <;> rfl
@[simp] theorem deliver_trace (ev : EventId) (s : State) : (deliver ev s).trace = s.trace := by
  unfold deliver; split <;> rfl

/-! ### comeDue -/

@[simp] theorem comeDue_r (ev : EventId) (s : State) : (comeDue ev s).r = s.r := by
  unfold comeDue; split <;> simp
@[simp] theorem comeDue_v (ev : EventId) (s : State) : (comeDue ev s).v = s.v := by
  unfold comeDue; split <;> simp
@[simp] theorem comeDue_t (ev : EventId) (s : State) : (comeDue ev s).t = s.t := by
  unfold comeDue; split <;> simp
@[simp] theorem comeDue_p (ev : EventId) (s : State) : (comeDue ev s).p = s.p := by
  unfold comeDue; split <;> simp
@[simp] theorem comeDue_g (ev : EventId) (s : State) : (comeDue ev s).g = s.g := by
  unfold comeDue; split <;> simp
@[simp] theorem comeDue_mem (ev : EventId) (s : State) : (comeDue ev s).mem = s.mem := by
  unfold comeDue; split <;> simp
@[simp] theorem comeDue_platform (ev : EventId) (s : State) : (comeDue ev s).platform = s.platform := by
  unfold comeDue; split <;> simp
@[simp] theorem comeDue_inputs (ev : EventId) (s : State) : (comeDue ev s).inputs = s.inputs := by
  unfold comeDue; split <;> simp
@[simp] theorem comeDue_hung (ev : EventId) (s : State) : (comeDue ev s).hung = s.hung := by
  unfold comeDue; split <;> simp
@[simp] theorem comeDue_trace (ev : EventId) (s : State) : (comeDue ev s).trace = s.trace := by
  unfold comeDue; split <;> simp

/-! ### redrive -/

@[simp] theorem redrive_r (d : Nat) (s : State) : (redrive d s).r = s.r := by
  unfold redrive; split <;> simp
@[simp] theorem redrive_v (d : Nat) (s : State) : (redrive d s).v = s.v := by
  unfold redrive; split <;> simp
@[simp] theorem redrive_t (d : Nat) (s : State) : (redrive d s).t = s.t := by
  unfold redrive; split <;> simp
@[simp] theorem redrive_p (d : Nat) (s : State) : (redrive d s).p = s.p := by
  unfold redrive; split <;> simp
@[simp] theorem redrive_g (d : Nat) (s : State) : (redrive d s).g = s.g := by
  unfold redrive; split <;> simp
@[simp] theorem redrive_mem (d : Nat) (s : State) : (redrive d s).mem = s.mem := by
  unfold redrive; split <;> simp
@[simp] theorem redrive_platform (d : Nat) (s : State) : (redrive d s).platform = s.platform := by
  unfold redrive; split <;> simp
@[simp] theorem redrive_env (d : Nat) (s : State) : (redrive d s).env = s.env := by
  unfold redrive; split <;> simp
@[simp] theorem redrive_inputs (d : Nat) (s : State) : (redrive d s).inputs = s.inputs := by
  unfold redrive; split <;> simp
@[simp] theorem redrive_hung (d : Nat) (s : State) : (redrive d s).hung = s.hung := by
  unfold redrive; split <;> simp

end Sys2Proof.Machine
end

