-- ==== Sys2Proof/Laws/Memory.lean ====
section
/-! SUPPORT. Memory: the canonical form is kept by every operation, and a read after a write gives what was written. -/

namespace Sys2Proof.Machine

/-- The canonical form, one entry at a time. -/
theorem wf_cons (k : Nat) (b : Byte) (m : Memory) :
    Memory.wf ((k, b) :: m) = true ↔ k < 2 ^ 32 ∧ (∀ x ∈ m, k < x.1) ∧ Memory.wf m = true := by
  induction m generalizing k b with
  | nil => simp [Memory.wf]
  | cons c m ih =>
    obtain ⟨j, d⟩ := c
    simp only [Memory.wf, Bool.and_eq_true, decide_eq_true_eq, List.mem_cons, forall_eq_or_imp]
    constructor
    · rintro ⟨hkj, hw⟩
      obtain ⟨hj, hall, hm⟩ := (ih j d).1 hw
      exact ⟨by omega, ⟨hkj, fun x hx => Nat.lt_trans hkj (hall x hx)⟩, hw⟩
    · rintro ⟨_, ⟨hkj, _⟩, hw⟩
      exact ⟨hkj, hw⟩

/-- The addresses listed after a write. -/
theorem mem_memSet {m : Memory} {a : Nat} {b : Byte} {x : Host.Cell} (h : x ∈ memSet m a b) : x.1 = a ∨ x ∈ m := by
  induction m with
  | nil => simp_all [memSet]
  | cons c m ih =>
    obtain ⟨k, d⟩ := c
    simp only [memSet] at h
    split at h
    · rcases List.mem_cons.1 h with rfl | h
      · exact .inl rfl
      · exact .inr h
    · split at h
      · rcases List.mem_cons.1 h with rfl | h
        · exact .inl rfl
        · exact .inr (List.mem_cons_of_mem _ h)
      · rcases List.mem_cons.1 h with rfl | h
        · exact .inr (List.mem_cons_self ..)
        · exact (ih h).imp id (List.mem_cons_of_mem _)

/-- A write keeps the canonical form. -/
theorem memSet_wf {m : Memory} {a : Nat} (b : Byte) (ha : a < 2 ^ 32) (h : Memory.wf m = true) :
    Memory.wf (memSet m a b) = true := by
  induction m with
  | nil => simpa [memSet, Memory.wf] using ha
  | cons c m ih =>
    obtain ⟨k, d⟩ := c
    obtain ⟨hk, hall, hm⟩ := (wf_cons k d m).1 h
    simp only [memSet]
    split
    next hlt =>
      refine (wf_cons a b _).2 ⟨ha, ?_, h⟩
      rintro x hx
      rcases List.mem_cons.1 hx with rfl | hx
      · exact hlt
      · exact Nat.lt_trans hlt (hall x hx)
    next hlt =>
      split
      next heq => exact (wf_cons a b m).2 ⟨ha, heq ▸ hall, hm⟩
      next hne =>
        refine (wf_cons k d _).2 ⟨hk, ?_, ih hm⟩
        intro x hx
        rcases mem_memSet hx with hx | hx
        · omega
        · exact hall x hx

/-- Storing bytes keeps the canonical form. -/
theorem storeBytes_wf {m : Memory} (a : Word) (bs : List Byte) (h : Memory.wf m = true) :
    Memory.wf (storeBytes m a bs) = true := by
  induction bs generalizing m a with
  | nil => exact h
  | cons b bs ih => exact ih (a + 1) (memSet_wf b a.isLt h)

/-- A read at the address written gives the byte written. -/
@[simp] theorem memGet_memSet_same (m : Memory) (a : Nat) (b : Byte) : memGet (memSet m a b) a = some b := by
  induction m with
  | nil => simp [memSet, memGet]
  | cons c m ih =>
    obtain ⟨k, d⟩ := c
    simp only [memSet]
    split
    · simp [memGet]
    · split
      · simp [memGet]
      next hne => simp [memGet, hne, ih]

/-- A read elsewhere gives what it gave. -/
theorem memGet_memSet_other (m : Memory) {a x : Nat} (b : Byte) (h : x ≠ a) : memGet (memSet m a b) x = memGet m x := by
  induction m with
  | nil => simp [memSet, memGet, h]
  | cons c m ih =>
    obtain ⟨k, d⟩ := c
    simp only [memSet]
    split
    · simp [memGet, h]
    · split
      next heq => subst heq; simp [memGet, h]
      next hne => simp only [memGet, ih]

/-- Byte `j` of a quadword put together from sixteen bytes is the `j`-th of them. -/
theorem quad_byte (b0 b1 b2 b3 b4 b5 b6 b7 b8 b9 b10 b11 b12 b13 b14 b15 : Byte) (j : Nat) (hj : j < 16) :
    (((b15 ++ b14 ++ b13 ++ b12 : BitVec (8 + 8 + 8 + 8)) ++ (b11 ++ b10 ++ b9 ++ b8 : BitVec (8 + 8 + 8 + 8)) ++
      (b7 ++ b6 ++ b5 ++ b4 : BitVec (8 + 8 + 8 + 8)) ++ (b3 ++ b2 ++ b1 ++ b0 : BitVec (8 + 8 + 8 + 8)) :
        BitVec (32 + 32 + 32 + 32)) : Quad).extractLsb' (8 * j) 8 =
      [b0, b1, b2, b3, b4, b5, b6, b7, b8, b9, b10, b11, b12, b13, b14, b15].getD j 0 := by
  interval_cases j <;>
    (apply BitVec.eq_of_getLsbD_eq
     intro i hi
     simp only [BitVec.getLsbD_append, BitVec.getLsbD_extractLsb']
     interval_cases i <;> simp)

/-- The quadword at an address holds its sixteen bytes in order, each address wrapping (20_memory.md R83, R84, R89). -/
theorem readQuad_byte (s : State) (a : Word) (j : Nat) (hj : j < 16) :
    (readQuad s a).extractLsb' (8 * j) 8 = readByte s (a + BitVec.ofNat 32 j) := by
  refine (quad_byte _ _ _ _ _ _ _ _ _ _ _ _ _ _ _ _ j hj).trans ?_
  interval_cases j <;> simp [addrPlus, BitVec.add_assoc]

/-- What a byte of memory reads as depends on memory alone. -/
theorem byteAt_congr {s t : State} (h : t.mem = s.mem) (a : Word) : byteAt t a = byteAt s a := by
  simp [byteAt, h]

end Sys2Proof.Machine
end

