-- ==== Sys2Proof/Laws/Ops.lean ====
section
/-! SUPPORT. Once for each shared operation, what it can do: the fields it changes, and for one that may stop, the cases in which it
answers a next state. -/

namespace Sys2Proof.Machine

/-! ### Results -/

@[simp] theorem andThen_next {α β : Type} (a : α) (f : α → Res β) : andThen (.next a) f = f a := rfl

/-- A sequence answers a next state exactly where both parts do. -/
theorem andThen_eq_next {α β : Type} {x : Res α} {f : α → Res β} {b : β} :
    andThen x f = .next b ↔ ∃ a, x = .next a ∧ f a = .next b := by
  cases x <;> simp [andThen]

/-! ### What the updates change -/

@[simp] theorem emit_trace (e : TraceEvent) (s : State) : (emit e s).trace = e :: s.trace := rfl
@[simp] theorem raiseLine_trace (c : IrqCause) (s : State) : (raiseLine c s).trace = .raiseLine c :: s.trace := rfl
@[simp] theorem logMessage_trace (m : LogMessage) (s : State) : (logMessage m s).trace = .log m :: s.trace := rfl
@[simp] theorem setStallFlag_trace (b : Bool) (s : State) : (setStallFlag b s).trace = .setStallFlag b :: s.trace := rfl
@[simp] theorem setStallFlag_h (b : Bool) (s : State) : (setStallFlag b s).h = { s.h with stallInd := b } := rfl
@[simp] theorem scheduleEvent_trace (ev : EventId) (d : Nat) (s : State) :
    (scheduleEvent ev d s).trace = .scheduleEvent ev d :: s.trace := rfl
@[simp] theorem scheduleEvent_h (ev : EventId) (d : Nat) (s : State) :
    (scheduleEvent ev d s).h = setPending ev (some ⟨d, s.h.now⟩) s.h := rfl
@[simp] theorem setPending_driver (x : Option Pending) (h : Hidden) : setPending .driver x h = { h with pendDriver := x } := rfl
@[simp] theorem setPending_sync (x : Option Pending) (h : Hidden) : setPending .sync x h = { h with pendSync := x } := rfl
@[simp] theorem pendingOf_driver (h : Hidden) : pendingOf .driver h = h.pendDriver := rfl
@[simp] theorem pendingOf_sync (h : Hidden) : pendingOf .sync h = h.pendSync := rfl
@[simp] theorem translate_fst (a : Word) (s : State) : (translate a s).1 = isMapped s.platform a := rfl
@[simp] theorem translate_trace (a : Word) (s : State) :
    (translate a s).2.trace = .translate a (isMapped s.platform a) :: s.trace := rfl
@[simp] theorem applyEffects_v (fx : Effects) (s : State) : (applyEffects fx s).v = applyRuntimeFx fx s.v := rfl
@[simp] theorem applyEffects_t (fx : Effects) (s : State) : (applyEffects fx s).t = applyStatusFx fx.status s.t := rfl
@[simp] theorem applyEffects_p (fx : Effects) (s : State) : (applyEffects fx s).p = applyCoprocFx fx.coproc s.p := rfl
@[simp] theorem account_r (n : Nat) (s : State) : (account n s).r =
    { s.r with madr := addrPlus s.r.madr (16 * min s.r.qwc.toNat (n / 4))
               qwc := BitVec.ofNat 32 (s.r.qwc.toNat - min s.r.qwc.toNat (n / 4)) } := rfl
@[simp] theorem account_v (n : Nat) (s : State) : (account n s).v =
    { s.v with resumeOffset := if n % 4 = 0 then ⟨false, 0⟩ else ⟨true, n % 4⟩ } := rfl
@[simp] theorem account_h (n : Nat) (s : State) : (account n s).h =
    { s.h with cycles := s.h.cycles + xferCost s.platform n } := rfl
@[simp] theorem reschedule_trace (s : State) : (reschedule s).trace =
    .stepEnd (.rescheduleAfter s.h.cycles) :: .scheduleEvent .driver s.h.cycles :: s.trace := rfl
@[simp] theorem reschedule_t (s : State) : (reschedule s).t = { s.t with queueDepth := depthOf s.r.qwc } := rfl
@[simp] theorem reschedule_h (s : State) : (reschedule s).h =
    { s.h with pendDriver := some ⟨s.h.cycles, s.h.now⟩ } := rfl
@[simp] theorem suspend_trace (s : State) : (suspend s).trace = .stepEnd .idle :: .setStallFlag true :: s.trace := rfl
@[simp] theorem suspend_t (s : State) : (suspend s).t = { s.t with decodePhase := .decoding } := rfl
@[simp] theorem suspend_h (s : State) : (suspend s).h = { s.h with stallInd := true } := rfl
@[simp] theorem endIdle_trace (s : State) : (endIdle s).trace = .stepEnd .idle :: s.trace := rfl
@[simp] theorem signalIrq_trace (s : State) : (signalIrq s).trace = .raiseLine .irqStall :: s.trace := rfl
@[simp] theorem signalIrq_t (s : State) : (signalIrq s).t = signalledStatus s.platform s.v s.t := rfl
@[simp] theorem signalIrq_v (s : State) : (signalIrq s).v = { s.v with pendingIrqCount := s.v.pendingIrqCount - 1 } := rfl
@[simp] theorem clearStall_v (s : State) : (clearStall s).v = { s.v with stall := { s.v.stall with enabled := false } } := rfl
@[simp] theorem clearStall_t (s : State) : (clearStall s).t =
    { s.t with decodePhase := decodePhaseFn s.v.cmd s.v.done s.r.qwc s.t.decodePhase } := rfl

@[simp] theorem openStep_h (s : State) : (openStep s).h = { s.h with cycles := 0 } := by
  unfold openStep; dsimp only; split <;> rfl
@[simp] theorem openStep_t (s : State) : (openStep s).t = { s.t with queueDepth := depthOf s.r.qwc } := by
  unfold openStep; dsimp only; split <;> rfl
@[simp] theorem openStep_trace (s : State) : (openStep s).trace =
    (if s.r.chcr.run then [] else [.anomaly .runBitClear, .log .runBitClear]) ++ s.trace := by
  unfold openStep; dsimp only; split <;> rfl
@[simp] theorem notePeerPath_trace (s : State) : (notePeerPath s).trace =
    (if s.t.waitPeerPath then [.anomaly .peerPathWait, .log .waitingOnPeerPath] else []) ++ s.trace := by
  unfold notePeerPath; split <;> rfl

/-- Delivery of the driver's event: its slot is empty and the clock has reached the cycle it was due. -/
@[simp] theorem deliver_driver_h (s : State) : (deliver .driver s).h =
    { s.h with pendDriver := none, now := clockAt s.h s.h.pendDriver } := by
  obtain ⟨_, _, _, _, _, ⟨c, pd, ps, si, nw⟩, _, _, _, _, _⟩ := s
  cases pd <;> rfl

/-- Delivery of the synchronizer's event. -/
@[simp] theorem deliver_sync_h (s : State) : (deliver .sync s).h =
    { s.h with pendSync := none, now := clockAt s.h s.h.pendSync } := by
  obtain ⟨_, _, _, _, _, ⟨c, pd, ps, si, nw⟩, _, _, _, _, _⟩ := s
  cases ps <;> rfl

/-! ### The feed -/

/-- A feed's reply is the next of the tape, or a free one. -/
@[simp] theorem unpack_fst (ws : List Word) (n : Nat) (b : Bool) (s : State) : (unpack ws n b s).1 = nextUnpack s := rfl
@[simp] theorem unpack_v (ws : List Word) (n : Nat) (b : Bool) (s : State) :
    (unpack ws n b s).2.v = applyRuntimeFx (nextUnpack s).fx s.v := by
  unfold unpack; dsimp only; split <;> rfl
@[simp] theorem unpack_t (ws : List Word) (n : Nat) (b : Bool) (s : State) :
    (unpack ws n b s).2.t = applyStatusFx (nextUnpack s).fx.status s.t := by
  unfold unpack; dsimp only; split <;> rfl
@[simp] theorem unpack_p (ws : List Word) (n : Nat) (b : Bool) (s : State) :
    (unpack ws n b s).2.p = applyCoprocFx (nextUnpack s).fx.coproc s.p := by
  unfold unpack; dsimp only; split <;> rfl
@[simp] theorem unpack_env (ws : List Word) (n : Nat) (b : Bool) (s : State) :
    (unpack ws n b s).2.env = { s.env with unpacks := s.env.unpacks.tail, draws := drawsAfter s.env.unpacks s.env.draws } := by
  unfold unpack; dsimp only; split <;> rfl
@[simp] theorem unpack_trace (ws : List Word) (n : Nat) (b : Bool) (s : State) : (unpack ws n b s).2.trace =
    (if (nextUnpack s).consumed then [] else [.anomaly .feedRefused]) ++
      .unpack ws b s.v.resumeOffset (nextUnpack s).consumed (takenOf (nextUnpack s) n) :: s.trace := by
  unfold unpack; dsimp only; split <;> simp_all

/-- What was taken is at most what was offered. -/
theorem takenOf_le (r : UnpackReply) (n : Nat) : takenOf r n ≤ n := by
  unfold takenOf; split <;> omega

/-! ### Chain-advance -/

@[simp] theorem chainAdvance_fst (k : TagKind) (s : State) : (chainAdvance k s).1 = (advance k s.r).2 := rfl
@[simp] theorem chainAdvance_r (k : TagKind) (s : State) : (chainAdvance k s).2.r = (advance k s.r).1 := by
  simp [chainAdvance]

@[simp] theorem chainAdvance_trace (k : TagKind) (s : State) : (chainAdvance k s).2.trace =
    .chainAdvance k (advance k s.r).2 :: ((stackAnomaly k s.r.chcr.asp).map .anomaly).toList ++ s.trace := by
  simp only [chainAdvance, noteStack, emit_trace]
  cases stackAnomaly k s.r.chcr.asp <;> rfl

/-- Chain-advance keeps the control register but the stack pointer, and the count. -/
theorem advance_keeps (k : TagKind) (r : Regs) :
    (advance k r).1.qwc = r.qwc ∧ ∃ asp, (advance k r).1.chcr = { r.chcr with asp := asp } := by
  cases k
  case call =>
    unfold advance advanceCall
    dsimp only
    split
    · exact ⟨rfl, 1, rfl⟩
    · exact ⟨rfl, 2, rfl⟩
    · exact ⟨rfl, r.chcr.asp, rfl⟩
  case ret =>
    unfold advance advanceRet
    dsimp only
    split
    · exact ⟨rfl, 1, rfl⟩
    · exact ⟨rfl, 0, rfl⟩
    · exact ⟨rfl, r.chcr.asp, rfl⟩
  all_goals exact ⟨rfl, r.chcr.asp, rfl⟩

/-- Chain-advance keeps the tag interrupt enable. -/
theorem advance_tie (k : TagKind) (r : Regs) : (advance k r).1.chcr.tie = r.chcr.tie := by
  obtain ⟨_, _, h⟩ := advance_keeps k r
  rw [h]

/-- The kinds that use no stack end the chain exactly where they are REFE or END. -/
theorem advance_end (r : Regs) : (advance .refe r).2 = true ∧ (advance .endTag r).2 = true := ⟨rfl, rfl⟩

/-! ### The processing of a tag -/

@[simp] theorem loadTag_v (k : TagKind) (f : TagFields) (s : State) : (loadTag k f s).v = { s.v with inProgress := false } := rfl
@[simp] theorem loadTag_h (k : TagKind) (f : TagFields) (s : State) :
    (loadTag k f s).h = { s.h with cycles := s.h.cycles + Config.tagFetchCost } := rfl

/-- The upper half-word a fetch remembers is bits 31 to 16 of the tag (41_chain_walker.md R134). -/
theorem tagUpperHalf_eq (k : TagKind) (f : TagFields) : tagUpperHalf k f = (packTag k f).extractLsb' 16 16 := by
  apply BitVec.eq_of_getLsbD_eq
  intro i hi
  obtain ⟨_, _, _, _, _, _⟩ := f
  cases k <;> simp only [tagUpperHalf, packTag, BitVec.getLsbD_append, BitVec.getLsbD_extractLsb', BitVec.getLsbD_ofBool] <;>
    interval_cases i <;> simp

/-- A fetched tag loads the count, the address and the upper half-word (R134, R135). -/
theorem loadTag_r (k : TagKind) (f : TagFields) (s : State) : (loadTag k f s).r = loadedRegs k f s.r := by
  simp only [loadTag, loadedRegs, tagUpperHalf_eq]

/-- Before a feed of tag data the resume offset is armed (R140). -/
@[simp] theorem armResume_v (s : State) : (armResume s).v = { s.v with resumeOffset := armedOffset s.v } := by
  unfold armResume armedOffset
  split <;> rfl

/-- The registers of a tag that is done with are moved by its kind's chain-advance (R143). -/
theorem completeTag_r (k : TagKind) (f : TagFields) (s : State) : (completeTag k f s).r = (advance k s.r).1 := by
  simp [completeTag]

/-- The runtime state of a tag that is done with (R142 to R145). -/
theorem completeTag_v (k : TagKind) (f : TagFields) (s : State) : (completeTag k f s).v = { s.v with
    resumeOffset := ⟨false, 0⟩
    done := (advance k s.r).2 || (f.irq && s.r.chcr.tie)
    inProgress := s.v.inProgress || s.r.qwc != 0 } := by
  simp [completeTag, advance_tie, (advance_keeps k s.r).1]

@[simp] theorem completeTag_trace (k : TagKind) (f : TagFields) (s : State) : (completeTag k f s).trace =
    .chainAdvance k (advance k s.r).2 :: ((stackAnomaly k s.r.chcr.asp).map .anomaly).toList ++ s.trace := by
  simp [completeTag]

/-- Loading a tag does not change what a feed of its data skips. -/
@[simp] theorem tagDataOffset_loadTag (k : TagKind) (f : TagFields) (s : State) :
    tagDataOffset (loadTag k f s).v = tagDataOffset s.v := rfl

/-- Loading a tag does not change the offset a feed of its data arms. -/
@[simp] theorem armedOffset_loadTag (k : TagKind) (f : TagFields) (s : State) :
    armedOffset (loadTag k f s).v = armedOffset s.v := rfl

@[simp] theorem refuseTagData_v (n : Nat) (s : State) :
    (refuseTagData n s).v = { s.v with resumeOffset := ⟨true, n⟩, inProgress := false } := rfl
@[simp] theorem refuseTagData_r (n : Nat) (s : State) : (refuseTagData n s).r = { s.r with qwc := 0 } := rfl

/-! ### The operations that may stop -/

/-- Element transfer answers a next state in one of three cases (41_chain_walker.md R128 to R130). -/
theorem elem_eq_next {s : State} {x : Bool × State} (h : elem s = .next x) :
    (s.r.qwc = 0 ∧ x = (true, { s with v := { s.v with inProgress := false } })) ∨
    (s.r.qwc ≠ 0 ∧ aligned s.r.madr = true ∧ isMapped s.platform s.r.madr = false ∧
      x = (true, discardElement (translate s.r.madr s).2)) ∨
    (s.r.qwc ≠ 0 ∧ aligned s.r.madr = true ∧ isMapped s.platform s.r.madr = true ∧
      x = feedElement (translate s.r.madr s).2) := by
  unfold elem at h
  split at h
  next h0 => exact .inl ⟨h0, by cases h; rfl⟩
  next h0 =>
    split at h
    · cases h
    next ha =>
      have ha : aligned s.r.madr = true := by simpa using ha
      dsimp only at h
      split at h
      next hm => exact .inr (.inl ⟨h0, ha, by simpa using hm, by cases h; rfl⟩)
      next hm => exact .inr (.inr ⟨h0, ha, by simpa using hm, by cases h; rfl⟩)

/-- A tag's meaning is the processing of its kind. -/
theorem execTag_eq (k : TagKind) (f : TagFields) (s : State) : execTag k f s = processTag k f s := by
  cases k <;> rfl

/-- A tag with an aligned address field is processed (41_chain_walker.md R134 to R145). -/
theorem processTag_aligned {k : TagKind} {f : TagFields} (s : State) (h : aligned f.addr = true) :
    processTag k f s = .next (consumeTag k f s) := if_pos h

/-- The processing of a tag answers a next state where its address field is aligned. -/
theorem processTag_eq_next {k : TagKind} {f : TagFields} {s t : State} (h : processTag k f s = .next t) :
    aligned f.addr = true ∧ t = consumeTag k f s := by
  unfold processTag at h
  split at h
  next ha => exact ⟨ha, by cases h; rfl⟩
  next => cases h

/-- Tag fetch answers a next state where the fetch stalls, or with the tag it read (41_chain_walker.md R133). -/
theorem tagFetch_eq_next {s t : State} (h : tagFetch s = .next t) :
    aligned s.r.tadr = true ∧
    (((fetchTag s.r.tadr s).1 = .stall ∧ t = (fetchTag s.r.tadr s).2) ∨
     ∃ q, (fetchTag s.r.tadr s).1 = .tag q ∧ aligned (tagFieldsOf q).addr = true ∧
       t = consumeTag (tagKindOf q) (tagFieldsOf q) (fetchTag s.r.tadr s).2) := by
  unfold tagFetch at h
  split at h
  · cases h
  next ha =>
    refine ⟨by simpa using ha, ?_⟩
    unfold onFetched at h
    split at h
    next hs => exact .inl ⟨hs, by cases h; rfl⟩
    next q hq => rw [execTag_eq] at h; exact .inr ⟨q, hq, processTag_eq_next h⟩

/-- Kickoff answers a next state where the addresses are on quadword boundaries: the run it opens. -/
theorem kickoff_eq_next {s t : State} (h : kickoff s = .next t) : s.r.onQuadwords = true ∧ t = openRun s := by
  unfold kickoff at h
  split at h
  next ha => exact ⟨ha, by cases h; rfl⟩
  next => cases h

/-- A write of the control register answers a next state: the register written, and where its run bit rises the run opened
(40_host_kickoff.md R112, R113). -/
theorem hostWriteChcr_eq_next {v : Word} {s t : State} (h : hostWriteChcr v s = .next t) :
    ((s.r.chcr.run = true ∨ v.getLsbD 8 = false) ∧ t = hostWrite .chcr v s) ∨
    (s.r.chcr.run = false ∧ v.getLsbD 8 = true ∧ (hostWrite .chcr v s).r.onQuadwords = true ∧
      t = openRun (hostWrite .chcr v s)) := by
  unfold hostWriteChcr at h
  split at h
  next hc =>
    have hc : s.r.chcr.run = false ∧ v.getLsbD 8 = true := by simpa using hc
    exact .inr ⟨hc.1, hc.2, kickoff_eq_next h⟩
  next hc =>
    refine .inl ⟨?_, by cases h; rfl⟩
    cases hr : s.r.chcr.run <;> simp_all

/-- Of two pending events the one due at the earlier cycle is delivered first (60_exceptions.md R208). -/
theorem pickEvent_both {s : State} {p q : Pending} (hp : s.h.pendDriver = some p) (hq : s.h.pendSync = some q) :
    (dueAt p < dueAt q → pickEvent s = some .driver) ∧ (dueAt q < dueAt p → pickEvent s = some .sync) ∧
      (pickEvent s = some .driver ∨ pickEvent s = some .sync) := by
  unfold pickEvent
  rw [hp, hq]
  refine ⟨fun h => if_pos h, fun h => (if_neg (by omega)).trans (if_pos h), ?_⟩
  dsimp only
  split
  · exact .inl rfl
  · split
    · exact .inr rfl
    · cases Config.freeOrder s.env.draws
      · exact .inr rfl
      · exact .inl rfl

/-- Steps 8 to 11 of the driver answer a next state in one of five cases (44_completion_driver.md R175 to R178). -/
theorem progress_eq_next {s t : State} (h : progress s = .next t) :
    (s.v.inProgress = true ∧ ∃ x, elem s = .next x ∧ t = reschedule x.2) ∨
    (s.v.inProgress = false ∧ s.v.done = false ∧ (s.g.dmaEnable = false ∨ s.t.stopped = true) ∧ t = endIdle s) ∨
    (s.v.inProgress = false ∧ s.v.done = false ∧ s.g.dmaEnable = true ∧ s.t.stopped = false ∧
      ∃ x, tagFetch s = .next x ∧ t = reschedule x) ∨
    (s.v.inProgress = false ∧ s.v.done = true ∧ s.v.stall.enabled = true ∧ t = endAfter .driver 0 s) ∨
    (s.v.inProgress = false ∧ s.v.done = true ∧ s.v.stall.enabled = false ∧ t = emit (.stepEnd .done) (finalize s)) := by
  unfold progress at h
  split at h
  next hp =>
    obtain ⟨x, hx, ht⟩ := andThen_eq_next.1 h
    exact .inl ⟨hp, x, hx, by cases ht; rfl⟩
  next hp =>
    have hp : s.v.inProgress = false := by simpa using hp
    split at h
    next hd =>
      have hd : s.v.done = false := by simpa using hd
      split at h
      next hg => exact .inr (.inl ⟨hp, hd, by simpa using hg, by cases h; rfl⟩)
      next hg =>
        obtain ⟨x, hx, ht⟩ := andThen_eq_next.1 h
        have hg : s.g.dmaEnable = true ∧ s.t.stopped = false := by simpa using hg
        exact .inr (.inr (.inl ⟨hp, hd, hg.1, hg.2, x, hx, by cases ht; rfl⟩))
    next hd =>
      have hd : s.v.done = true := by simpa using hd
      split at h
      next he => exact .inr (.inr (.inr (.inl ⟨hp, hd, he, by cases h; rfl⟩)))
      next he => exact .inr (.inr (.inr (.inr ⟨hp, hd, by simpa using he, by cases h; rfl⟩)))

/-- Steps 5 to 11 answer a next state by suspending, or by going on with the stall cleared, with or without an interrupt signalled
(44_completion_driver.md R172, R173). -/
theorem coalesce_eq_next {s t : State} (h : coalesce s = .next t) :
    (irqDue s.v = true ∧ suspends (signalIrq s) = true ∧ t = suspend (signalIrq s)) ∨
    (irqDue s.v = true ∧ suspends (signalIrq s) = false ∧ progress (clearStall (signalIrq s)) = .next t) ∨
    (irqDue s.v = false ∧ progress (clearStall s) = .next t) := by
  unfold coalesce at h
  split at h
  next hi =>
    dsimp only at h
    split at h
    next hs => exact .inl ⟨hi, hs, by cases h; rfl⟩
    next hs => exact .inr (.inl ⟨hi, by simpa using hs, h⟩)
  next hi => exact .inr (.inr ⟨by simpa using hi, h⟩)

/-- A driver step answers a next state with the addresses on quadword boundaries, by deferring to the synchronizer, or by its
steps 4 to 11 (44_completion_driver.md R170). -/
theorem driverStep_eq_next {s t : State} (h : driverStep s = .next t) :
    s.r.onQuadwords = true ∧
    ((s.v.waitingForCoprocessor = true ∧ t = deferToSync (openStep s)) ∨
     (s.v.waitingForCoprocessor = false ∧ coalesce (notePeerPath (openStep s)) = .next t)) := by
  unfold driverStep at h
  split at h
  next ha =>
    refine ⟨ha, ?_⟩
    unfold runActions at h
    dsimp only at h
    split at h
    next hw => exact .inl ⟨by simpa using hw, by cases h; rfl⟩
    next hw => exact .inr ⟨by simpa using hw, h⟩
  next => cases h

@[simp] theorem arbitrated_r (s : State) : (arbitrated s).r = s.r := rfl
@[simp] theorem arbitrated_p (s : State) : (arbitrated s).p = s.p := rfl
@[simp] theorem arbitrated_g (s : State) : (arbitrated s).g = s.g := rfl
@[simp] theorem arbitrated_mem (s : State) : (arbitrated s).mem = s.mem := rfl
@[simp] theorem arbitrated_platform (s : State) : (arbitrated s).platform = s.platform := rfl
@[simp] theorem arbitrated_env (s : State) : (arbitrated s).env = s.env := rfl
@[simp] theorem arbitrated_inputs (s : State) : (arbitrated s).inputs = s.inputs := rfl
@[simp] theorem arbitrated_hung (s : State) : (arbitrated s).hung = s.hung := rfl
@[simp] theorem arbitrated_inProgress (s : State) : (arbitrated s).v.inProgress = s.v.inProgress := rfl
@[simp] theorem arbitrated_done (s : State) : (arbitrated s).v.done = s.v.done := rfl
@[simp] theorem arbitrated_stall (s : State) : (arbitrated s).v.stall.enabled = false := rfl
@[simp] theorem arbitrated_queued (s : State) : (arbitrated s).v.queuedProgramPending = s.v.queuedProgramPending := rfl
@[simp] theorem arbitrated_resumeOffset (s : State) : (arbitrated s).v.resumeOffset = s.v.resumeOffset := rfl
@[simp] theorem arbitrated_stopped (s : State) : (arbitrated s).t.stopped = s.t.stopped := rfl
@[simp] theorem arbitrated_h (s : State) : (arbitrated s).h =
    { s.h with cycles := 0, pendDriver := none, now := clockAt s.h s.h.pendDriver } := rfl

/-- With no interrupt due, steps 1, 2, 4, 6 and 7 leave the state `arbitrated` says. -/
theorem clearStall_eq_arbitrated {s : State} (h : irqDue s.v = false) :
    clearStall (notePeerPath (openStep (deliver .driver s))) = arbitrated s := by
  obtain ⟨⟨⟨_, _, _, _, _, _, run, _, _⟩, _, _, _, _, _⟩, v, ⟨_, _, _, _, _, wp, _, _, _⟩, _, _, ⟨_, pd, _, _, _⟩, _, _, _, _, _⟩ := s
  cases pd <;> cases run <;> cases wp <;>
    simp_all [clearStall, notePeerPath, openStep, deliver, arbitrated, decodePhaseFn, depthOf, clockAt, pendingOf,
      setPending, logMessage, emit, Config.fifoCap]

/-- With an interrupt due, step 5's signal comes between (44_completion_driver.md R172). -/
theorem clearStall_signalIrq_eq_arbitrated {s : State} (h : irqDue s.v = true) :
    clearStall (signalIrq (notePeerPath (openStep (deliver .driver s)))) = arbitrated s := by
  obtain ⟨⟨⟨_, _, _, _, _, _, run, _, _⟩, _, _, _, _, _⟩, v, ⟨_, _, _, _, _, wp, _, _, _⟩, _, _, ⟨_, pd, _, _, _⟩, _, _, _, _, _⟩ := s
  cases pd <;> cases run <;> cases wp <;>
    simp_all [clearStall, signalIrq, signalledStatus, raiseLine, notePeerPath, openStep, deliver, arbitrated, decodePhaseFn,
      depthOf, clockAt, pendingOf, setPending, logMessage, emit, Config.fifoCap]

/-- Whether step 5 suspends can be asked of the state the step is delivered in. -/
theorem suspends_signalIrq {s : State} (h : irqDue s.v = true) :
    suspends (signalIrq (notePeerPath (openStep (deliver .driver s)))) = suspendsOnIrq s := by
  have hb (a b c d : Bool) : (a || (b || d) || c) = (a || b || c || d) := by cases a <;> cases b <;> cases c <;> cases d <;> rfl
  simp [suspends, signalIrq, signalledStatus, raiseLine, suspendsOnIrq, h, anyStallSub, hb]

/-- A driver step that goes on past its steps 1 to 7 is its steps 8 to 11 on the state those leave
(44_completion_driver.md R168 to R174). -/
theorem execDriverStep_arbitrated {s : State} (ha : s.r.onQuadwords = true) (hw : s.v.waitingForCoprocessor = false)
    (hs : suspendsOnIrq s = false) : execDriverStep s = progress (arbitrated s) := by
  unfold execDriverStep driverStep runActions coalesce
  simp only [deliver_r, openStep_v, deliver_v, notePeerPath_v, ha, hw, if_true, Bool.false_eq_true, if_false]
  split
  next hi => rw [suspends_signalIrq hi, hs, clearStall_signalIrq_eq_arbitrated hi]; rfl
  next hi => rw [clearStall_eq_arbitrated (by simpa using hi)]

/-- The synchronizer after its loop answers a next state by checking again, or by releasing the wait
(43_vu_synchronizer.md R163 to R165). -/
theorem afterCatchUp_eq_next {s t : State} (h : afterCatchUp s = .next t) :
    ((s.p.stopped = true ∨ s.p.busy = true) ∧ t = recheck s) ∨
    (s.p.stopped = false ∧ s.p.busy = false ∧ releaseWait s = .next t) := by
  unfold afterCatchUp at h
  split at h
  next hb => exact .inl ⟨by simpa using hb, by cases h; rfl⟩
  next hb =>
    have hb : s.p.stopped = false ∧ s.p.busy = false := by simpa using hb
    rw [if_neg (by simp [hb.2])] at h
    exact .inr ⟨hb.1, hb.2, h⟩

/-- A driver step that answers completes: it leaves no step under way (00_scope.md R12). -/
theorem driverStep_hung {s t : State} (h : driverStep s = .next t) : t.hung = s.hung := by
  have later {s t : State} (h : progress s = .next t) : t.hung = s.hung := by
    rcases progress_eq_next h with ⟨_, x, hx, rfl⟩ | ⟨_, _, _, rfl⟩ | ⟨_, _, _, _, x, hx, rfl⟩ | ⟨_, _, _, rfl⟩ | ⟨_, _, _, rfl⟩
    · rcases elem_eq_next hx with ⟨_, rfl⟩ | ⟨_, _, _, rfl⟩ | ⟨_, _, _, rfl⟩ <;> simp
    · simp
    · rcases tagFetch_eq_next hx with ⟨_, ⟨_, rfl⟩ | ⟨q, _, _, rfl⟩⟩ <;> simp
    · simp
    · simp
  rcases driverStep_eq_next h with ⟨_, ⟨_, rfl⟩ | ⟨_, h⟩⟩
  · simp
  · rcases coalesce_eq_next h with ⟨_, _, rfl⟩ | ⟨_, _, h⟩ | ⟨_, h⟩
    · simp
    · simpa using later h
    · simpa using later h

/-- What follows a loop that ended completes (43_vu_synchronizer.md R163 to R165). -/
theorem afterCatchUp_hung {s t : State} (h : afterCatchUp s = .next t) : t.hung = s.hung := by
  rcases afterCatchUp_eq_next h with ⟨_, rfl⟩ | ⟨_, _, h⟩
  · simp
  · unfold releaseWait at h
    dsimp only at h
    split at h
    · split at h
      · exact (driverStep_hung h).trans rfl
      · cases h; rfl
    · cases h; rfl

/-- A property that every block keeps holds after the catch-up loop (43_vu_synchronizer.md R160). -/
theorem catchUp_keeps {P : State → Prop} (hP : ∀ s, P s → P (executeBlock s)) :
    ∀ (n : Nat) {s : State}, P s → P (catchUp n s)
  | 0, _, h => h
  | n + 1, s, h => by
    rw [catchUp]
    split
    · exact catchUp_keeps hP n (hP s h)
    · exact h

/-! ### The catch-up loop -/

/-- The loop's condition, in the spec's words (43_vu_synchronizer.md R160, R161). -/
theorem mustCatchUp_iff (s : State) : mustCatchUp s = true ↔ lagsBehind s := by
  unfold mustCatchUp paceAllows cycleGap lagsBehind
  cases s.platform.pacing <;> simp

theorem mustCatchUp_false_iff (s : State) : mustCatchUp s = false ↔ ¬ lagsBehind s := by
  rw [← mustCatchUp_iff, Bool.not_eq_true]

/-- The first block of a program first, or the last one last. -/
theorem afterBlocks_succ (n : Nat) (s : State) : afterBlocks (n + 1) s = afterBlocks n (executeBlock s) := by
  induction n with
  | zero => rfl
  | succ n ih => exact congrArg executeBlock ih

/-- No block touches anything but the co-processor's status, the status flags, the replies and the trace
(45_interfaces.md R193). -/
theorem afterBlocks_frame (n : Nat) (s : State) : (afterBlocks n s).r = s.r ∧ (afterBlocks n s).v = s.v ∧
    (afterBlocks n s).h = s.h ∧ SameWorld s (afterBlocks n s) := by
  induction n with
  | zero => exact ⟨rfl, rfl, rfl, rfl, rfl, rfl, rfl, rfl⟩
  | succ n ih => simpa only [afterBlocks, SameWorld, executeBlock_r, executeBlock_v, executeBlock_h, executeBlock_g,
      executeBlock_mem, executeBlock_platform, executeBlock_inputs, executeBlock_hung] using ih

/-- A loop that goes round once first goes round once fewer from the next state. -/
theorem catchesUpIn_succ (n : Nat) (s : State) :
    catchesUpIn (n + 1) s ↔ lagsBehind s ∧ catchesUpIn n (executeBlock s) := by
  unfold catchesUpIn
  rw [afterBlocks_succ]
  constructor
  · rintro ⟨h, hn⟩
    exact ⟨h 0 (by omega), fun j hj => afterBlocks_succ j s ▸ h (j + 1) (by omega), hn⟩
  · rintro ⟨h0, h, hn⟩
    refine ⟨fun j hj => ?_, hn⟩
    cases j with
    | zero => exact h0
    | succ j => exact (afterBlocks_succ j s).symm ▸ h j (by omega)

/-- A loop that ends within its fuel leaves the state after its blocks (R160). -/
theorem catchUp_of_catchesUpIn {n rounds : Nat} {s : State} (h : catchesUpIn n s) (hr : n ≤ rounds) :
    catchUp rounds s = afterBlocks n s := by
  induction n generalizing rounds s with
  | zero => cases rounds <;> simp [catchUp, (mustCatchUp_false_iff s).2 h.2, afterBlocks]
  | succ n ih =>
    obtain ⟨h0, hn⟩ := (catchesUpIn_succ n s).1 h
    obtain ⟨m, rfl⟩ : ∃ m, rounds = m + 1 := ⟨rounds - 1, by omega⟩
    rw [catchUp, if_pos ((mustCatchUp_iff s).2 h0), afterBlocks_succ]
    exact ih hn (by omega)

/-- A loop that outlasts its fuel has run as many blocks as it was given. -/
theorem catchUp_of_lagsBehind {rounds : Nat} {s : State} (h : ∀ j < rounds, lagsBehind (afterBlocks j s)) :
    catchUp rounds s = afterBlocks rounds s := by
  induction rounds generalizing s with
  | zero => rfl
  | succ m ih =>
    rw [catchUp, if_pos ((mustCatchUp_iff s).2 (h 0 (by omega))), afterBlocks_succ]
    exact ih fun j hj => afterBlocks_succ j s ▸ h (j + 1) (by omega)

/-- Within its fuel a loop ends, or it lags behind after every one of its blocks. -/
theorem catchesUp_or_lags (rounds : Nat) (s : State) :
    (∃ n ≤ rounds, catchesUpIn n s) ∨ ∀ j ≤ rounds, lagsBehind (afterBlocks j s) := by
  induction rounds with
  | zero =>
    by_cases h : lagsBehind s
    · exact .inr fun j hj => by cases Nat.le_zero.1 hj; exact h
    · exact .inl ⟨0, Nat.le_refl 0, fun j hj => absurd hj (Nat.not_lt_zero j), h⟩
  | succ m ih =>
    rcases ih with ⟨n, hn, hc⟩ | ih
    · exact .inl ⟨n, by omega, hc⟩
    · by_cases h : lagsBehind (afterBlocks (m + 1) s)
      · exact .inr fun j hj => by rcases Nat.le_succ_iff.1 hj with hj | rfl; exacts [ih j hj, h]
      · exact .inl ⟨m + 1, Nat.le_refl _, fun j hj => ih j (by omega), h⟩

/-- SYNCSTEP's body where the loop ends: what follows the loop, on the state after its blocks (R160, R166). -/
theorem syncStep_of_catchesUpIn {n : Nat} {s : State} (h : catchesUpIn n s) (hr : n ≤ catchUpRounds s) :
    syncStep s = afterCatchUp (afterBlocks n s) := by
  simp [syncStep, catchUp_of_catchesUpIn h hr, (mustCatchUp_false_iff _).2 h.2]

/-- SYNCSTEP's body where the loop outlasts its fuel: it hangs (93_implementation_defined.md U8). -/
theorem syncStep_of_lagsBehind {s : State} (h : ∀ j ≤ catchUpRounds s, lagsBehind (afterBlocks j s)) :
    syncStep s = .next (hang (afterBlocks (catchUpRounds s) s)) := by
  simp [syncStep, catchUp_of_lagsBehind fun j hj => h j (Nat.le_of_lt hj), (mustCatchUp_iff _).2 (h _ (Nat.le_refl _))]

/-- All SYNCSTEP's body can do: the loop ends and what follows it answers, or it hangs. -/
theorem syncStep_eq (s : State) :
    (∃ n ≤ catchUpRounds s, catchesUpIn n s ∧ syncStep s = afterCatchUp (afterBlocks n s)) ∨
    ((∀ j ≤ catchUpRounds s, lagsBehind (afterBlocks j s)) ∧ syncStep s = .next (hang (afterBlocks (catchUpRounds s) s))) :=
  (catchesUp_or_lags (catchUpRounds s) s).imp (fun ⟨n, hn, hc⟩ => ⟨n, hn, hc, syncStep_of_catchesUpIn hc hn⟩)
    fun h => ⟨h, syncStep_of_lagsBehind h⟩

/-- A loop runs one number of blocks. -/
theorem catchesUpIn_unique {n m : Nat} {s : State} (hn : catchesUpIn n s) (hm : catchesUpIn m s) : n = m := by
  rcases Nat.lt_trichotomy n m with h | h | h
  · exact absurd (hm.1 n h) hn.2
  · exact h
  · exact absurd (hn.1 m h) hm.2

end Sys2Proof.Machine
end

