-- ==== Sys2Proof/Laws/PerInstr.lean ====
section
/-! SUPPORT. The family EncodedForm, one lemma for each constructor of Instr: what an operation's encoding looks like. -/

namespace Sys2Proof.Laws

/-- The bytes a frame of a format has (30_encoding.md R107: each format has one fixed length). -/
def EncodedForm.frameLength : Format → Nat
  | .tag => 16
  | .regRead => 1
  | .regWrite => 5
  | .event => 1

/-- The format an operation is encoded in; `none` for the rows of formats INT, EXT, PORT and PSEUDO
(30_encoding.md R96). -/
def EncodedForm.formatOf : Instr → Option Format
  | .refe _ | .cnt _ | .next _ | .ref _ | .refs _ | .call _ | .ret _ | .endTag _ => some .tag
  | .rdChcr | .rdMadr | .rdQwc | .rdTadr | .rdAsr0 | .rdAsr1 => some .regRead
  | .wrChcr _ | .wrMadr _ | .wrQwc _ | .wrTadr _ | .wrAsr0 _ | .wrAsr1 _ => some .regWrite
  | .driverStep | .syncStep => some .event
  | .kickoff | .elem | .tagFetch | .finalize => none
  | .runClear | .redrive _ | .forceStop | .statusWrite _ | .memWrite _ _ | .reset => none
  | .translate _ | .fetchTag _ | .unpack _ _ _ | .chainAdvance _ | .scheduleEvent _ _ | .setStallFlag _ => none
  | .raiseLine _ | .log _ | .executeBlock | .finishPass | .executeQueuedProgram => none
  | .startNormal _ _ | .startChain _ _ _ | .ack _ | .forceStopPseudo | .run => none

/-- An operation is encoded exactly where its row has a format with bits, in a frame of that format and of its length. -/
def EncodedForm.Statement (i : Instr) : Prop :=
  (encode i).map (fun f => (f.fmt, f.bytes.length)) =
    (EncodedForm.formatOf i).map fun m => (m, EncodedForm.frameLength m)

/-- Each little-endian list has the length asked for. -/
theorem leBytes_length (n v : Nat) : (leBytes n v).length = n := by
  induction n generalizing v with
  | zero => rfl
  | succ n ih => simp [leBytes, ih]

/-- The frame of a tag has sixteen bytes. -/
theorem tagFrame_form (k : TagKind) (t : TagFields) :
    (some (tagFrame k t)).map (fun f => (f.fmt, f.bytes.length)) = some (Format.tag, 16) := by
  simp [tagFrame, leBytes_length, Config.tagBytes]

/-- The frame of a register write has five bytes. -/
theorem writeFrame_form (r : Reg) (v : Word) :
    (some (writeFrame r v)).map (fun f => (f.fmt, f.bytes.length)) = some (Format.regWrite, 5) := by
  simp [writeFrame, leBytes_length]

theorem EncodedForm.refe (t : TagFields) : EncodedForm.Statement (.refe t) := tagFrame_form .refe t
theorem EncodedForm.cnt (t : TagFields) : EncodedForm.Statement (.cnt t) := tagFrame_form .cnt t
theorem EncodedForm.next (t : TagFields) : EncodedForm.Statement (.next t) := tagFrame_form .next t
theorem EncodedForm.ref (t : TagFields) : EncodedForm.Statement (.ref t) := tagFrame_form .ref t
theorem EncodedForm.refs (t : TagFields) : EncodedForm.Statement (.refs t) := tagFrame_form .refs t
theorem EncodedForm.call (t : TagFields) : EncodedForm.Statement (.call t) := tagFrame_form .call t
theorem EncodedForm.ret (t : TagFields) : EncodedForm.Statement (.ret t) := tagFrame_form .ret t
theorem EncodedForm.endTag (t : TagFields) : EncodedForm.Statement (.endTag t) := tagFrame_form .endTag t
theorem EncodedForm.rdChcr : EncodedForm.Statement .rdChcr := rfl
theorem EncodedForm.wrChcr (value : Word) : EncodedForm.Statement (.wrChcr value) := writeFrame_form .chcr value
theorem EncodedForm.rdMadr : EncodedForm.Statement .rdMadr := rfl
theorem EncodedForm.wrMadr (value : Word) : EncodedForm.Statement (.wrMadr value) := writeFrame_form .madr value
theorem EncodedForm.rdQwc : EncodedForm.Statement .rdQwc := rfl
theorem EncodedForm.wrQwc (value : Word) : EncodedForm.Statement (.wrQwc value) := writeFrame_form .qwc value
theorem EncodedForm.rdTadr : EncodedForm.Statement .rdTadr := rfl
theorem EncodedForm.wrTadr (value : Word) : EncodedForm.Statement (.wrTadr value) := writeFrame_form .tadr value
theorem EncodedForm.rdAsr0 : EncodedForm.Statement .rdAsr0 := rfl
theorem EncodedForm.wrAsr0 (value : Word) : EncodedForm.Statement (.wrAsr0 value) := writeFrame_form .asr0 value
theorem EncodedForm.rdAsr1 : EncodedForm.Statement .rdAsr1 := rfl
theorem EncodedForm.wrAsr1 (value : Word) : EncodedForm.Statement (.wrAsr1 value) := writeFrame_form .asr1 value
theorem EncodedForm.driverStep : EncodedForm.Statement .driverStep := rfl
theorem EncodedForm.syncStep : EncodedForm.Statement .syncStep := rfl
theorem EncodedForm.kickoff : EncodedForm.Statement .kickoff := rfl
theorem EncodedForm.elem : EncodedForm.Statement .elem := rfl
theorem EncodedForm.tagFetch : EncodedForm.Statement .tagFetch := rfl
theorem EncodedForm.finalize : EncodedForm.Statement .finalize := rfl
theorem EncodedForm.runClear : EncodedForm.Statement .runClear := rfl
theorem EncodedForm.redrive (delay : Nat) : EncodedForm.Statement (.redrive delay) := rfl
theorem EncodedForm.forceStop : EncodedForm.Statement .forceStop := rfl
theorem EncodedForm.statusWrite (w : StatusWrite) : EncodedForm.Statement (.statusWrite w) := rfl
theorem EncodedForm.memWrite (addr : Word) (bytes : List Byte) : EncodedForm.Statement (.memWrite addr bytes) := rfl
theorem EncodedForm.reset : EncodedForm.Statement .reset := rfl
theorem EncodedForm.translate (addr : Word) : EncodedForm.Statement (.translate addr) := rfl
theorem EncodedForm.fetchTag (addr : Word) : EncodedForm.Statement (.fetchTag addr) := rfl
theorem EncodedForm.unpack (words : List Word) (count : Nat) (isTagData : Bool) : EncodedForm.Statement (.unpack words count isTagData) := rfl
theorem EncodedForm.chainAdvance (kind : TagKind) : EncodedForm.Statement (.chainAdvance kind) := rfl
theorem EncodedForm.scheduleEvent (ev : EventId) (delay : Nat) : EncodedForm.Statement (.scheduleEvent ev delay) := rfl
theorem EncodedForm.setStallFlag (b : Bool) : EncodedForm.Statement (.setStallFlag b) := rfl
theorem EncodedForm.raiseLine (cause : IrqCause) : EncodedForm.Statement (.raiseLine cause) := rfl
theorem EncodedForm.log (message : LogMessage) : EncodedForm.Statement (.log message) := rfl
theorem EncodedForm.executeBlock : EncodedForm.Statement .executeBlock := rfl
theorem EncodedForm.finishPass : EncodedForm.Statement .finishPass := rfl
theorem EncodedForm.executeQueuedProgram : EncodedForm.Statement .executeQueuedProgram := rfl
theorem EncodedForm.startNormal (madr : Word) (n : Word) : EncodedForm.Statement (.startNormal madr n) := rfl
theorem EncodedForm.startChain (tadr : Word) (tte tie : Bool) : EncodedForm.Statement (.startChain tadr tte tie) := rfl
theorem EncodedForm.ack (delay : Nat) : EncodedForm.Statement (.ack delay) := rfl
theorem EncodedForm.forceStopPseudo : EncodedForm.Statement .forceStopPseudo := rfl
theorem EncodedForm.run : EncodedForm.Statement .run := rfl

end Sys2Proof.Laws
end

