-- ==== Sys2Proof/Tests/Slice0.lean ====
section
/-! SUPPORT. The model's own tests. Expected values are those of spec/95_test_vectors.md (named at each test) or computed by
hand from a rule. The `witness_…` theorems show that the hypotheses of each statement can be met. -/

namespace Sys2Proof.Tests

open Sys2Proof Sys2Proof.Machine

/-! ### Helpers -/

/-- The state after an operation, if it answers one. -/
def after (i : Instr) (s : State) : Option State :=
  match exec i s with
  | .next t => some t
  | _ => none

/-- The state after a step, if it answers one. -/
def stepped (s : State) : Option State :=
  match step s with
  | .next t => some t
  | _ => none

/-- An operation answers a next state. -/
def completes (i : Instr) (s : State) : Bool :=
  (after i s).isSome

/-- Where it does, it does. -/
theorem of_completes {i : Instr} {s : State} (h : completes i s = true) : ∃ u, exec i s = .next u := by
  unfold completes after at h
  split at h
  next t ht => exact ⟨t, ht⟩
  next => cases h

/-- The platform of the test vectors: everything mapped but the 32 KiB at 0xFFFF0000, command 5 alone exempt, a feed of `n` words
costs `100 + n`, no pacing. -/
def vectorPlatform : Platform where
  ranges := [⟨0xFFFF0000, 0x8000, false⟩, ⟨0, 2 ^ 32, true⟩]
  exempt := [(0, false), (5, true), (9, false)]
  costs := [(0, 100), (2, 102), (3, 103), (4, 104), (6, 106), (8, 108), (12, 112), (16, 116)]
  pacing := false
  finishBias := 2
  syncDeferDelay := 7
  channelId := 1
  regBase := 0x10009000

/-- The vectors' start state: reset, DMA enabled, fetches that do not stall. -/
def bench : State :=
  { State.reset with
    g := ⟨true⟩
    platform := vectorPlatform
    env := { Env.reset with fetchStalls := [false, false] } }

/-- The start state with registers. -/
def withRegs (madr qwc tadr : Word) (c : Word) (s : State := bench) : State :=
  { s with r := { s.r with madr := madr, qwc := qwc, tadr := tadr, chcr := unpackChcr c } }

/-- A state with replies of `unpack` to come. -/
def replying (rs : List UnpackReply) (s : State) : State :=
  { s with env := { s.env with unpacks := rs } }

/-- A state with the three fields that steer the driver. -/
def phase (inProgress done : Bool) (s : State) : State :=
  { s with v := { s.v with inProgress := inProgress, done := done } }

/-- A state with a resume offset. -/
def resuming (o : ResumeOffset) (s : State) : State :=
  { s with v := { s.v with resumeOffset := o } }

/-- A state with an enabled interrupt stall, command 9, and requests pending. -/
def irqStalled (n : Nat) (s : State) : State :=
  { s with v := { s.v with stall := ⟨true, .irqStall⟩, pendingIrqCount := n, cmd := 9 } }

/-- A state with bytes in memory. -/
def holding (a : Word) (bs : List Byte) (s : State) : State :=
  { s with mem := storeBytes s.mem a bs }

/-- `R.madr`, `R.qwc`, `R.tadr`. -/
def pointers (s : State) : Word × Word × Word :=
  (s.r.madr, s.r.qwc, s.r.tadr)

/-- `V.inProgress`, `V.done`. -/
def marks (s : State) : Bool × Bool :=
  (s.v.inProgress, s.v.done)

/-- The delays pending for the driver and the synchronizer. -/
def delays (s : State) : Option Nat × Option Nat :=
  (s.h.pendDriver.map (·.delay), s.h.pendSync.map (·.delay))

/-! ### WellFormed: each check refuses an ill-formed term -/

theorem test_wf_unpack_count : (Instr.unpack [1, 2] 3 true).wf = false := by decide
theorem test_wf_statusWrite_depth : (Instr.statusWrite { queueDepth := some 9 }).wf = false := by decide
theorem test_wf_statusWrite_depth8 : (Instr.statusWrite { queueDepth := some 8 }).wf = true := by decide
/-- A store of more bytes than there are addresses. -/
theorem test_wf_memWrite_length (a : Word) (bytes : List Byte) (h : 2 ^ 32 < bytes.length) :
    (Instr.memWrite a bytes).wf = false :=
  decide_eq_false (Nat.not_le.2 h)
/-- The step refuses an ill-formed move by name. -/
theorem test_step_refuses_ill_formed :
    step { State.reset with inputs := [.move (.statusWrite { queueDepth := some 9 })] } = .refused .illFormed := by rfl

/-! ### Decoding: words written out from the encodings (30_encoding.md R97, R98, R101, R105; 95_test_vectors.md 2.1) -/

theorem test_decode_refe :
    decode ⟨.tag, [0, 0, 0, 0, 0, 0, 0, 0, 0, 0, 0, 0, 0, 0, 0, 0]⟩ = .ok (.refe { qwc := 0 }) := by decide
theorem test_decode_cnt :
    decode ⟨.tag, [0x01, 0, 0, 0x10, 0, 0, 0, 0, 0, 0, 0, 0, 0, 0, 0, 0]⟩ = .ok (.cnt { qwc := 1 }) := by decide
theorem test_decode_next :
    decode ⟨.tag, [0x01, 0, 0, 0x20, 0, 0x40, 0, 0, 0, 0, 0, 0, 0, 0, 0, 0]⟩ = .ok (.next { qwc := 1, addr := 0x4000 }) := by
  decide
theorem test_decode_ref :
    decode ⟨.tag, [0x02, 0, 0, 0x30, 0, 0x30, 0, 0, 0, 0, 0, 0, 0, 0, 0, 0]⟩ = .ok (.ref { qwc := 2, addr := 0x3000 }) := by
  decide
theorem test_decode_refs :
    decode ⟨.tag, [0x02, 0, 0, 0x40, 0, 0x30, 0, 0, 0, 0, 0, 0, 0, 0, 0, 0]⟩ = .ok (.refs { qwc := 2, addr := 0x3000 }) := by
  decide
theorem test_decode_call :
    decode ⟨.tag, [0x01, 0, 0, 0x50, 0, 0x20, 0, 0, 0xA0, 0xA0, 0xA0, 0xA0, 0xA1, 0xA1, 0xA1, 0xA1]⟩ =
      .ok (.call { qwc := 1, addr := 0x2000, data := 0xA1A1A1A1A0A0A0A0 }) := by decide
theorem test_decode_ret :
    decode ⟨.tag, [0, 0, 0, 0x60, 0, 0, 0, 0, 0, 0, 0, 0, 0, 0, 0, 0]⟩ = .ok (.ret { qwc := 0 }) := by decide
/-- The row with all ignored bits set: END, no IRQ request, and `lastTag` 0x7FFF. -/
theorem test_decode_end_ignored_bits :
    decode ⟨.tag, [0x01, 0x00, 0xFF, 0x7F, 0, 0, 0, 0, 0, 0, 0, 0, 0, 0, 0, 0]⟩ =
        .ok (.endTag { qwc := 1, unused := 0x3FF, pce := 3 }) ∧
      tagUpperHalf .endTag { qwc := 1, unused := 0x3FF, pce := 3 } = 0x7FFF := by decide
theorem test_decode_reads :
    [0x00, 0x10, 0x20, 0x30, 0x40, 0x50].map (fun o => decode ⟨.regRead, [o]⟩) =
      [.ok .rdChcr, .ok .rdMadr, .ok .rdQwc, .ok .rdTadr, .ok .rdAsr0, .ok .rdAsr1] := by decide
theorem test_decode_writes :
    [0x00, 0x10, 0x20, 0x30, 0x40, 0x50].map (fun o => decode ⟨.regWrite, [o, 0x44, 0x33, 0x22, 0x11]⟩) =
      [.ok (.wrChcr 0x11223344), .ok (.wrMadr 0x11223344), .ok (.wrQwc 0x11223344), .ok (.wrTadr 0x11223344),
        .ok (.wrAsr0 0x11223344), .ok (.wrAsr1 0x11223344)] := by decide
theorem test_decode_events :
    decode ⟨.event, [0]⟩ = .ok .driverStep ∧ decode ⟨.event, [1]⟩ = .ok .syncStep := by decide
theorem test_decode_rejects :
    decode ⟨.regRead, [0x60]⟩ = .error (.noSuchRegister 0x60) ∧ decode ⟨.tag, [0]⟩ = .error .wrongLength ∧
      decode ⟨.event, []⟩ = .error .wrongLength := by decide
theorem test_encode_end :
    encode (.endTag { qwc := 0xFFFF, irq := true, addr := 0xFFFFFFF0 }) =
      some ⟨.tag, [0xFF, 0xFF, 0x00, 0xF0, 0xF0, 0xFF, 0xFF, 0xFF, 0, 0, 0, 0, 0, 0, 0, 0]⟩ := by decide
/-- The opcode table's words: a tag, an offset, an event. -/
theorem test_tableWord :
    decodeTableWord 128 0x10000001 = some (.cnt { qwc := 1 }) ∧ decodeTableWord 8 0x30 = some .rdTadr ∧
      decodeTableWord 8 0x01 = some .syncStep := by decide
/-- A word placed for the next step is the tag that step fetches: REF of two quadwords. -/
theorem test_fetchWord_tag :
    (stepped (State.reset.withFetchWord 128 0x000030003_0000002)).map (fun t => (pointers t, marks t, delays t)) =
      some ((0x3000, 2, 0x10), (true, false), (some 1, none)) := by decide
/-- A word placed for the next step is the register access that step makes. -/
theorem test_fetchWord_reg :
    (stepped (State.reset.withFetchWord 8 0x10)).map (·.trace) = some [.regRead .madr 0] := by decide

/-! ### Tags as operations (95_test_vectors.md 2.5, 2.4) -/

theorem test_refe : (after (.refe { qwc := 2, addr := 0x3000 }) (withRegs 0 0 0x2000 0)).map (fun t => (pointers t, marks t)) =
    some ((0x3000, 2, 0x2010), (true, true)) := by decide
theorem test_cnt : (after (.cnt { qwc := 1 }) (withRegs 0 0 0x2000 0)).map (fun t => (pointers t, marks t)) =
    some ((0x2010, 1, 0x2020), (true, false)) := by decide
theorem test_cnt_wraps : (after (.cnt { qwc := 1 }) (withRegs 0 0 0xFFFFFFE0 0)).map pointers =
    some (0xFFFFFFF0, 1, 0) := by decide
theorem test_next : (after (.next { qwc := 0, addr := 0x2000 }) (withRegs 0 0 0x2000 0)).map (fun t => (pointers t, marks t)) =
    some ((0x2010, 0, 0x2000), (false, false)) := by decide
theorem test_ref : (after (.ref { qwc := 2, addr := 0x3000 }) (withRegs 0 0 0x2000 0)).map (fun t => (pointers t, marks t)) =
    some ((0x3000, 2, 0x2010), (true, false)) := by decide
theorem test_refs : (after (.refs { qwc := 2, addr := 0x3000 }) (withRegs 0 0 0x2000 0)).map (fun t => (pointers t, marks t)) =
    some ((0x3000, 2, 0x2010), (true, false)) := by decide
/-- 20_memory.md R87: an address field that is no multiple of 16 is refused. -/
theorem test_refs_misaligned_field : exec (.refs { qwc := 2, addr := 0x3004 }) (withRegs 0 0 0x2000 0) =
    .refused (.misalignedField 0x3004) := by rfl
theorem test_call : (after (.call { qwc := 1, addr := 0x2000 }) (withRegs 0 0 0x1000 0)).map
      (fun t => (pointers t, t.r.asr0, t.r.chcr.asp, t.v.done)) =
    some ((0x1010, 1, 0x2000), 0x1020, 1, false) := by decide
theorem test_call_overflow : (after (.call { qwc := 1, addr := 0x6000 }) (withRegs 0 0 0x5000 0x20)).map
      (fun t => (pointers t, t.r.asr0, t.r.asr1, t.r.chcr.asp, t.v.done)) =
    some ((0x5010, 1, 0x5000), 0, 0, 2, true) := by decide
theorem test_ret : (after (.ret { qwc := 0 })
      { withRegs 0 0 0x5000 0x20 with r := { (withRegs 0 0 0x5000 0x20).r with asr0 := 0x1020, asr1 := 0x2010 } }).map
      (fun t => (pointers t, t.r.asr0, t.r.asr1, t.r.chcr.asp, t.v.done)) =
    some ((0x5010, 0, 0x2010), 0x1020, 0, 1, false) := by decide
theorem test_ret_invalid_pointer : (after (.ret { qwc := 0 }) (withRegs 0 0 0x2020 0x30)).map
      (fun t => (pointers t, t.r.chcr.asp, t.v.done)) =
    some ((0x2030, 0, 0x2020), 3, true) := by decide
theorem test_end : (after (.endTag { qwc := 1 }) (withRegs 0 0 0x6000 0)).map
      (fun t => (pointers t, marks t, t.h.cycles, t.r.chcr.lastTag)) =
    some ((0x6010, 1, 0x6000), (true, true), 1, 0x7000) := by decide
/-- 2.4 row 6: a feed that stops after one word. -/
theorem test_end_feed_stops : (after (.endTag { qwc := 1, data := 0xB1B1B1B1B0B0B0B0 })
      (replying [⟨false, 1, {}⟩] (withRegs 0 0 0x6000 0x40))).map
      (fun t => (pointers t, marks t, t.h.cycles, t.v.resumeOffset)) =
    some ((0, 0, 0x6000), (false, false), 104, ⟨true, 3⟩) := by decide
/-- 2.4, last table: a CNT with IRQ under tag-irq-enable. -/
theorem test_cnt_irq : (after (.cnt { qwc := 1, irq := true }) (withRegs 0 0 0x4000 0x80)).map
      (fun t => (pointers t, marks t)) = some ((0x4010, 1, 0x4020), (true, true)) := by decide

/-! ### Register accesses and Kickoff (95_test_vectors.md 2.2, 2.9) -/

theorem test_rdChcr : (after .rdChcr (withRegs 0 0 0 0x90000185)).map (·.trace) = some [.regRead .chcr 0x90000185] := by decide
theorem test_rdMadr : (after .rdMadr (withRegs 0x100040 0 0 0)).map (·.trace) = some [.regRead .madr 0x100040] := by decide
theorem test_rdQwc : (after .rdQwc (withRegs 0 4 0 0)).map (·.trace) = some [.regRead .qwc 4] := by decide
theorem test_rdTadr : (after .rdTadr (withRegs 0 0 0x2000 0)).map (·.trace) = some [.regRead .tadr 0x2000] := by decide
theorem test_rdAsr0 : (after .rdAsr0 { bench with r := { bench.r with asr0 := 0x1020 } }).map (·.trace) =
    some [.regRead .asr0 0x1020] := by decide
theorem test_rdAsr1 : (after .rdAsr1 { bench with r := { bench.r with asr1 := 0x2010 } }).map (·.trace) =
    some [.regRead .asr1 0x2010] := by decide
theorem test_wrMadr : (after (.wrMadr 0x100000) bench).map pointers = some (0x100000, 0, 0) := by decide
/-- A write of the count does not recompute the queue depth. -/
theorem test_wrQwc : (after (.wrQwc 5) { bench with t := { bench.t with queueDepth := 2 } }).map
      (fun t => (pointers t, t.t.queueDepth)) = some ((0, 5, 0), 2) := by decide
theorem test_wrTadr : (after (.wrTadr 0x2000) bench).map pointers = some (0, 0, 0x2000) := by decide
theorem test_wrAsr0 : (after (.wrAsr0 0x1020) bench).map (fun t => (t.r.asr0, t.r.asr1)) = some (0x1020, 0) := by decide
theorem test_wrAsr1 : (after (.wrAsr1 0x2010) bench).map (fun t => (t.r.asr0, t.r.asr1)) = some (0, 0x2010) := by decide
/-- 2.2: implied CNT with IRQ, under tag-irq-enable. -/
theorem test_wrChcr_implied_irq : (after (.wrChcr 0x90000185) (withRegs 0 3 0 0)).map
      (fun t => (t.v.mode, marks t, t.t.queueDepth, delays t)) =
    some (.chain, (true, true), 3, (some 4, none)) := by decide
/-- 2.2: implied CNT. -/
theorem test_wrChcr_implied_cnt : (after (.wrChcr 0x10000105) (withRegs 0 3 0 0)).map
      (fun t => (t.v.mode, marks t, delays t)) = some (.chain, (true, false), (some 4, none)) := by decide
/-- 2.2: a count above the cap, `MOD` 3. -/
theorem test_kickoff_normal : (after .kickoff (withRegs 0 20 0 0x0000010D)).map
      (fun t => (t.v.mode, marks t, t.t.queueDepth, delays t)) =
    some (.normalFromMemory, (true, true), 8, (some 4, none)) := by decide
/-- 2.2: the channel is stopped. -/
theorem test_kickoff_stopped : (after .kickoff { withRegs 0 4 0 0x101 with t := { bench.t with stopped := true } }).map
      (fun t => (marks t, delays t)) = some ((true, true), (none, none)) := by decide

/-! ### ELEM, TAGFETCH, FINALIZE (95_test_vectors.md 2.3, 2.4, 2.7) -/

/-- 2.3 row 6. -/
theorem test_elem_stops : (after .elem (replying [⟨false, 1, {}⟩] (resuming ⟨true, 2⟩ (withRegs 0x1000 3 0 0)))).map
      (fun t => (pointers t, t.v.resumeOffset, t.h.cycles)) =
    some ((0x1000, 3, 0), ⟨true, 3⟩, 103) := by decide
/-- 2.3 row 10: the address wraps. -/
theorem test_elem_wraps : (after .elem (replying [⟨true, 0, {}⟩] (withRegs 0xFFFFFFF0 1 0 0))).map
      (fun t => (pointers t, t.v.resumeOffset, t.h.cycles)) =
    some ((0, 0, 0), ⟨false, 0⟩, 104) := by decide
/-- 2.4 row 2: END of one quadword at 0x6000. -/
theorem test_tagFetch : (after .tagFetch (holding 0x6000 [1, 0, 0, 0x70, 0, 0, 0, 0, 0, 0, 0, 0, 0, 0, 0, 0]
      (withRegs 0 0 0x6000 0))).map (fun t => (pointers t, marks t, t.h.cycles)) =
    some ((0x6010, 1, 0x6000), (true, true), 1) := by decide
/-- 2.4 row 1. -/
theorem test_tagFetch_stalls : (after .tagFetch { withRegs 1 2 0x6000 0 with
      env := { bench.env with fetchStalls := [true] } }).map (fun t => (pointers t, marks t, t.h.cycles)) =
    some ((1, 2, 0x6000), (false, false), 0) := by decide
/-- 2.7 step 11: the queued program first, then the line. -/
theorem test_finalize : (after .finalize { withRegs 0 0 0 0x101 with
      v := { bench.v with queuedProgramPending := true }
      env := { bench.env with queued := [⟨true, {}⟩] } }).map
      (fun t => (t.r.chcr.run, t.v.queuedProgramPending, t.p.busy, t.trace)) =
    some (false, false, true, [.setStallFlag false, .raiseLine .completion, .executeQueuedProgram]) := by decide

/-! ### DRIVERSTEP (95_test_vectors.md 2.6, 2.7) -/

/-- 2.6 row 1. -/
theorem test_driverStep_suspends : (after .driverStep (irqStalled 2 (phase true true (withRegs 0x5000 3 0 0x101)))).map
      (fun t => (t.t.interruptFlag, t.t.irqStalled, t.v.pendingIrqCount, t.t.decodePhase, t.trace)) =
    some (true, true, 1, .decoding, [.stepEnd .idle, .setStallFlag true, .raiseLine .irqStall]) := by decide
/-- 2.6 row 5: nothing left, so the same step finalizes too. -/
theorem test_driverStep_both_causes : (after .driverStep (irqStalled 1 (phase false true (withRegs 0x5000 0 0 0x101)))).map
      (fun t => (t.r.chcr.run, t.t.irqStalled, t.v.pendingIrqCount, t.t.decodePhase, pulses .irqStall t.trace,
        pulses .completion t.trace)) =
    some (false, true, 0, .waiting, 1, 1) := by decide

/-! ### SYNCSTEP (95_test_vectors.md 2.8) -/

/-- 2.8 row 6: pacing off, three blocks. -/
theorem test_syncStep_catches_up : (after .syncStep { bench with
      p := ⟨true, false, 8, 100⟩
      env := { bench.env with blocks := [⟨false, false, 8, 8, {}⟩, ⟨false, false, 8, 8, {}⟩, ⟨true, false, 8, 8, {}⟩] } }).map
      (fun t => (t.p.busy, t.p.elapsedCycles, delays t, t.trace)) =
    some (false, 124, (none, none), [.executeBlock, .executeBlock, .executeBlock]) := by decide
/-- 2.8 row 4: pacing on, one block, then the gap is too small. -/
theorem test_syncStep_paced : (after .syncStep { bench with
      platform := { vectorPlatform with pacing := true }
      p := ⟨true, false, 8, 0⟩
      h := { bench.h with now := 8 }
      env := { bench.env with blocks := [⟨false, false, 8, 8, {}⟩] } }).map
      (fun t => (t.p.busy, t.p.elapsedCycles, delays t, t.h.stallInd)) =
    some (true, 8, (none, some 128), true) := by decide

/-- 45_interfaces.md R193, D44: a block that leaves the co-processor busy takes a cycle, so with a gap of 0 the paced loop ends
after it. -/
theorem test_syncStep_paced_progress : (after .syncStep { bench with
      platform := { vectorPlatform with pacing := true }
      p := ⟨true, false, 0, 8⟩
      h := { bench.h with now := 8 }
      env := { bench.env with blocks := [⟨false, false, 0, 0, {}⟩] } }).map
      (fun t => (t.p.busy, t.p.elapsedCycles, delays t, t.hung)) =
    some (true, 9, (none, some 128), false) := by decide
/-- 60_exceptions.md R197: there is no fault to raise. -/
theorem test_no_fault (r : Fault) : False := nomatch r
/-- 93_implementation_defined.md U8: after a step that never completes no agent steps again, whatever is to come. -/
theorem test_hung_is_stuck :
    stepped { hang bench with inputs := [.read [0x10]] } = some { hang bench with inputs := [.read [0x10]] } := by decide

/-! ### Host moves, ports, pseudo-operations (95_test_vectors.md 2.9; 45_interfaces.md; 30_encoding.md R109) -/

theorem test_runClear : (after .runClear (withRegs 0 0 0 0x105)).map (fun t => packChcr t.r.chcr) = some 0x5 := by decide
theorem test_redrive : (after (.redrive 3) bench).map delays = some (some 3, none) := by decide
theorem test_forceStop : (after .forceStop bench).map (·.g) = some ⟨false⟩ := by decide
theorem test_statusWrite : (after (.statusWrite { status := { stopped := some true }, coproc := { busy := some true } }) bench).map
      (fun t => (t.t.stopped, t.t.irqStalled, t.p.busy, t.g.dmaEnable)) = some (true, false, true, true) := by decide
theorem test_memWrite : (after (.memWrite 0xFFFFFFFF [0x12, 0x34]) bench).map (·.mem) =
    some [(0, 0x34), (0xFFFFFFFF, 0x12)] := by decide
theorem test_reset : (after .reset (phase true true (withRegs 1 2 3 0x101))).map
      (fun t => (packChcr t.r.chcr, marks t, delays t)) = some (0, (false, false), (none, none)) := by decide
theorem test_translate : (after (.translate 0xFFFF0000) bench).map (·.trace) = some [.translate 0xFFFF0000 false] := by decide
/-- The halves and words of a quadword, little-endian (20_memory.md R83, R84). -/
theorem test_fetchTag : (after (.fetchTag 0x40) (holding 0x40 [0, 1, 2, 3, 4, 5, 6, 7, 8, 9, 10, 11, 12, 13, 14, 15] bench)).map
      (·.trace) = some [.fetchTag 0x40 (.tag 0x0F0E0D0C0B0A09080706050403020100)] := by decide
theorem test_fetchTag_unmapped : (after (.fetchTag 0xFFFF0000) bench).map (·.trace) =
    some [.anomaly .fetchStall, .fetchTag 0xFFFF0000 .stall] := by decide
/-- Requests are added to, not replaced. -/
theorem test_unpack : (after (.unpack [7] 1 false) (replying [⟨false, 4, { addIrqs := 2, setWaiting := true }⟩]
      (irqStalled 1 bench))).map (fun t => (t.v.pendingIrqCount, t.v.waitingForCoprocessor, t.trace)) =
    some (3, true, [.anomaly .feedRefused, .unpack [7] false ⟨false, 0⟩ false 1]) := by decide
theorem test_chainAdvance : (after (.chainAdvance .cnt) (withRegs 0 1 0x2000 0)).map pointers =
    some (0x2010, 1, 0x2020) := by decide
theorem test_scheduleEvent : (after (.scheduleEvent .sync 128) bench).map delays = some (none, some 128) := by decide
theorem test_setStallFlag : (after (.setStallFlag true) bench).map (·.h.stallInd) = some true := by decide
theorem test_raiseLine : (after (.raiseLine .completion) bench).map (·.trace) = some [.raiseLine .completion] := by decide
theorem test_log : (after (.log .runBitClear) bench).map (·.trace) = some [.log .runBitClear] := by decide
theorem test_executeBlock : (after .executeBlock { bench with
      p := ⟨true, false, 8, 3⟩
      env := { bench.env with blocks := [⟨true, true, 10, 5, {}⟩] } }).map (·.p) = some ⟨false, true, 5, 13⟩ := by decide
theorem test_finishPass : (after .finishPass { bench with
      p := ⟨true, false, 8, 3⟩
      env := { bench.env with passes := [⟨10, none, none⟩] } }).map (·.p) = some ⟨false, false, 8, 13⟩ := by decide
theorem test_executeQueuedProgram : (after .executeQueuedProgram { bench with
      v := { bench.v with queuedProgramPending := true }
      env := { bench.env with queued := [⟨true, { cmd := some 9 }⟩] } }).map
      (fun t => (t.v.queuedProgramPending, t.v.cmd, t.p.busy)) = some (false, 9, true) := by decide
/-- 95_test_vectors.md P1, Kickoff. -/
theorem test_startNormal : (after (.startNormal 0x100000 4) bench).map
      (fun t => (pointers t, marks t, delays t, packChcr t.r.chcr)) =
    some ((0x100000, 4, 0), (true, true), (some 4, none), 0x101) := by decide
/-- 20_memory.md R87: a run from a misaligned address is refused. -/
theorem test_startNormal_misaligned : exec (.startNormal 0x100008 4) bench = .refused (.misalignedRun 0x100008 0) := by rfl
/-- 95_test_vectors.md P3, Kickoff. -/
theorem test_startChain : (after (.startChain 0x1000 true false) bench).map
      (fun t => (t.r.tadr, marks t, delays t, packChcr t.r.chcr)) =
    some (0x1000, (false, false), (some 4, none), 0x145) := by decide
theorem test_ack : (after (.ack 2) { bench with t := { bench.t with irqStalled := true, interruptFlag := true } }).map
      (fun t => (t.t.irqStalled, t.t.interruptFlag, delays t)) = some (false, false, (some 2, none)) := by decide
theorem test_forceStopPseudo : (after .forceStopPseudo bench).map (·.g) = some ⟨false⟩ := by decide
/-- RUN delivers the pending driver step, which finalizes, and stands among the inputs again. -/
theorem test_run : (after .run { phase false true (withRegs 0 0 0 0x101) with
      h := { bench.h with pendDriver := some ⟨4, 0⟩ } }).map (fun t => (t.r.chcr.run, delays t, t.inputs)) =
    some (false, (none, none), [.move .run]) := by decide
/-- 60_exceptions.md R208: of two pending events the one due at cycle 3 goes before the one due at cycle 4. -/
theorem test_run_earlier_first : (after .run { phase false true (withRegs 0 0 0 0x101) with
      h := { bench.h with pendDriver := some ⟨4, 0⟩, pendSync := some ⟨2, 1⟩ } }).map (fun t => (t.r.chcr.run, delays t)) =
    some (true, (some 4, none)) := by decide

/-! ### Witnesses: the hypotheses of each statement, met together by a concrete state and operands -/

/-- A chain run between two tags, tag transfer on. -/
def feeding (rs : List UnpackReply) (o : ResumeOffset) : State :=
  replying rs (resuming o (withRegs 0 0 0x6000 0x145))

/-- An open run with the driver's event pending. -/
def opened (inProgress done : Bool) (qwc : Word) : State :=
  phase inProgress done { withRegs 0x1000 qwc 0x6000 0x105 with h := { bench.h with pendDriver := some ⟨4, 0⟩, now := 2 } }

theorem witness_DecodeInvertsEncode :
    (Instr.wrQwc 4).wf = true ∧ encode (.wrQwc 4) = some ⟨.regWrite, [0x20, 4, 0, 0, 0]⟩ := by decide
theorem witness_EveryTagFrameDecodesAndReencodes :
    ([1, 0, 0, 0x90, 0, 0, 0, 0, 0, 0, 0, 0, 0, 0, 0, 0xFF] : List Byte).length = 16 := by decide
theorem witness_OffsetSelectsRegisterOrIsRejected :
    (Reg.asr1, 0x50#8) ∈ [(Reg.chcr, 0x00#8), (.madr, 0x10#8), (.qwc, 0x20#8), (.tadr, 0x30#8), (.asr0, 0x40#8), (.asr1, 0x50#8)] ∧
      0x51#8 ∉ [0x00#8, 0x10#8, 0x20#8, 0x30#8, 0x40#8, 0x50#8] ∧ 0xFF#8 ∉ [0x00#8, 0x10#8, 0x20#8, 0x30#8, 0x40#8, 0x50#8] := by
  decide
theorem witness_StepRunsDecodedInput_hung : (hang bench).hung = true := by decide
theorem witness_StepRunsDecodedInput_read :
    bench.hung = false ∧ ({ bench with inputs := [.read [0x10]] } : State).inputs = .read [0x10] :: [] ∧
      decode ⟨.regRead, [0x10]⟩ = .ok .rdMadr := by decide
theorem witness_StepRunsDecodedInput_write :
    bench.hung = false ∧ ({ bench with inputs := [.write [0, 5, 1, 0, 0]] } : State).inputs = .write [0, 5, 1, 0, 0] :: [] ∧
      decode ⟨.regWrite, [0, 5, 1, 0, 0]⟩ = .ok (.wrChcr 0x105) := by decide
theorem witness_StepRunsDecodedInput_event :
    bench.hung = false ∧ ({ bench with inputs := [.event [1]] } : State).inputs = .event [1] :: [] ∧
      decode ⟨.event, [1]⟩ = .ok .syncStep := by decide
theorem witness_StepRunsDecodedInput_move :
    bench.hung = false ∧ ({ bench with inputs := [.move .reset, .wait 3] } : State).inputs = .move .reset :: [.wait 3] ∧
      HostMove.reset.instr.wf = true := by decide
theorem witness_StepRunsDecodedInput_wait :
    bench.hung = false ∧ ({ bench with inputs := [.wait 3] } : State).inputs = .wait 3 :: [] := by decide
theorem witness_StepWithoutInputDelivers_none :
    bench.hung = false ∧ bench.inputs = [] ∧ bench.h.pendDriver = none ∧ bench.h.pendSync = none := by decide
theorem witness_StepWithoutInputDelivers_driver :
    (opened true false 2).hung = false ∧ (opened true false 2).inputs = [] ∧ (opened true false 2).h.pendDriver = some ⟨4, 0⟩ ∧
      (opened true false 2).h.pendSync = none := by decide
theorem witness_StepWithoutInputDelivers_sync :
    (scheduleEvent .sync 128 bench).hung = false ∧ (scheduleEvent .sync 128 bench).inputs = [] ∧
      (scheduleEvent .sync 128 bench).h.pendDriver = none ∧
      (scheduleEvent .sync 128 bench).h.pendSync = some ⟨128, 0⟩ := by decide
/-- The driver's event due at 4 and the synchronizer's at 130; at 5 and at 3; both at 4. -/
theorem witness_StepWithoutInputDelivers_both :
    ((scheduleEvent .sync 128 (opened true false 2)).hung = false ∧ (scheduleEvent .sync 128 (opened true false 2)).inputs = [] ∧
      (scheduleEvent .sync 128 (opened true false 2)).h.pendDriver = some ⟨4, 0⟩ ∧
      (scheduleEvent .sync 128 (opened true false 2)).h.pendSync = some ⟨128, 2⟩ ∧ 0 + 4 < 2 + 128) ∧
    ((scheduleEvent .sync 1 (scheduleEvent .driver 3 (opened true false 2))).h.pendDriver = some ⟨3, 2⟩ ∧
      (scheduleEvent .sync 1 (scheduleEvent .driver 3 (opened true false 2))).h.pendSync = some ⟨1, 2⟩ ∧ 2 + 1 < 2 + 3) ∧
    ((scheduleEvent .sync 2 (opened true false 2)).h.pendDriver = some ⟨4, 0⟩ ∧
      (scheduleEvent .sync 2 (opened true false 2)).h.pendSync = some ⟨2, 2⟩ ∧ 0 + 4 = 2 + 2) := by decide
theorem witness_ControlWriteWithoutTransition :
    ((withRegs 0 0 0 0x100).r.chcr.run = true ∨ (0x101 : Word).getLsbD 8 = false) ∧
      (bench.r.chcr.run = true ∨ (0x005 : Word).getLsbD 8 = false) := by decide
theorem witness_ControlWriteReadsBack :
    (withRegs 0 0 0 0x100).r.chcr.run = true ∧ (0x005 : Word).getLsbD 8 = false ∧
      (withRegs 0xFFFFFFF0 2 0x10 0).r.onQuadwords = true := by decide
theorem witness_RunBitTransitionKicksOff :
    bench.r.chcr.run = false ∧ (0x105 : Word).getLsbD 8 = true ∧ bench.r.onQuadwords = true := by decide
theorem witness_KickoffOpensRun : (withRegs 0xFFFFFFF0 2 0x10 0x105).r.onQuadwords = true := by decide
theorem witness_ChainAdvanceMovesPointers : TagKind.endTag ≠ .call ∧ TagKind.endTag ≠ .ret := by decide
theorem witness_CallPushesAndRetPops :
    (withRegs 0 1 0x1000 0x00).r.chcr.asp = 0#2 ∧ (withRegs 0 1 0x1000 0x10).r.chcr.asp = 1#2 ∧
      (withRegs 0 1 0x1000 0x20).r.chcr.asp = 2#2 ∧ (withRegs 0 1 0x1000 0x30).r.chcr.asp = 3#2 := by decide
/-- A RET right after a CALL with one address saved already. -/
theorem witness_ReturnUndoesCall : ∃ u x : State,
    (withRegs 0x2000 1 0x1000 0x10).r.chcr.asp.toNat < 2 ∧
      exec (.chainAdvance .call) (withRegs 0x2000 1 0x1000 0x10) = .next u ∧ u.r.asr0 = u.r.asr0 ∧ u.r.asr1 = u.r.asr1 ∧
      u.r.chcr.asp = u.r.chcr.asp ∧ exec (.chainAdvance .ret) u = .next x :=
  ⟨_, _, by decide, rfl, rfl, rfl, rfl, rfl⟩
theorem witness_TagWithoutTransferLoadsAndAdvances :
    ({ qwc := 1, addr := 0xFFFFFFF0 } : TagFields).addr.extractLsb' 0 4 = 0#4 ∧ (withRegs 0 0 0x2000 0x105).r.chcr.tte = false := by
  decide
theorem witness_TagDataFeedOffersUpperHalf_fresh :
    ({ qwc := 1, addr := 0xFFFFFFF0 } : TagFields).addr.extractLsb' 0 4 = 0#4 ∧
      (feeding [] ⟨false, 0⟩).r.chcr.tte = true ∧ (feeding [] ⟨false, 0⟩).v.resumeOffset.enabled = false := by decide
theorem witness_TagDataFeedOffersUpperHalf_two :
    ({ qwc := 1, addr := 0xFFFFFFF0 } : TagFields).addr.extractLsb' 0 4 = 0#4 ∧
      (feeding [] ⟨true, 2⟩).r.chcr.tte = true ∧ (feeding [] ⟨true, 2⟩).v.resumeOffset = ⟨true, 2⟩ := by decide
theorem witness_TagDataFeedOffersUpperHalf_three :
    ({ qwc := 1, addr := 0xFFFFFFF0 } : TagFields).addr.extractLsb' 0 4 = 0#4 ∧
      (feeding [] ⟨true, 3⟩).r.chcr.tte = true ∧ (feeding [] ⟨true, 3⟩).v.resumeOffset = ⟨true, 3⟩ := by decide
theorem witness_ConsumedTagDataCompletesTag :
    ({ qwc := 1, addr := 0xFFFFFFF0 } : TagFields).addr.extractLsb' 0 4 = 0#4 ∧
      (feeding [⟨true, 0, {}⟩] ⟨false, 0⟩).r.chcr.tte = true ∧
      (nextUnpack (feeding [⟨true, 0, {}⟩] ⟨false, 0⟩)).consumed = true := by decide
theorem witness_RefusedTagDataKeepsTag :
    ({ qwc := 1, addr := 0xFFFFFFF0 } : TagFields).addr.extractLsb' 0 4 = 0#4 ∧
      (feeding [⟨false, 1, {}⟩] ⟨false, 0⟩).r.chcr.tte = true ∧
      (nextUnpack (feeding [⟨false, 1, {}⟩] ⟨false, 0⟩)).consumed = false := by decide
theorem witness_TerminalTagSetsDone_refe : ∃ u, exec (.refe { qwc := 2 }) (feeding [⟨false, 1, {}⟩] ⟨false, 0⟩) = .next u :=
  of_completes (by decide)
theorem witness_TerminalTagSetsDone_end : ∃ u, exec (.endTag { qwc := 2 }) bench = .next u :=
  of_completes (by decide)
theorem witness_TagFetchRunsDecodedTag :
    (withRegs 0 0 0xFFFFFFF0 0x105).r.tadr.extractLsb' 0 4 = 0#4 ∧
      isMapped (withRegs 0 0 0xFFFFFFF0 0x105).platform (withRegs 0 0 0xFFFFFFF0 0x105).r.tadr = true ∧
      (drawFetchStall (withRegs 0 0 0xFFFFFFF0 0x105)).1 = false ∧
      (readQuad (drawFetchStall (holding 0xFFFFFFF0 [1, 0, 0, 0x70, 0, 0, 0, 0, 0, 0, 0, 0, 0, 0, 0, 0]
        (withRegs 0 0 0xFFFFFFF0 0x105))).2 0xFFFFFFF0).extractLsb' 32 4 = 0#4 := by decide
theorem witness_StalledTagFetchLeavesBlock_unmapped :
    (withRegs 0 0 0xFFFF0000 0x105).r.tadr.extractLsb' 0 4 = 0#4 ∧
      isMapped (withRegs 0 0 0xFFFF0000 0x105).platform (withRegs 0 0 0xFFFF0000 0x105).r.tadr = false := by decide
theorem witness_StalledTagFetchLeavesBlock_drawn :
    bench.r.tadr.extractLsb' 0 4 = 0#4 ∧
      (drawFetchStall { bench with env := { bench.env with fetchStalls := [true] } }).1 = true := by decide
theorem witness_MisalignedAccessIsRefused :
    ((withRegs 0x1008 1 0x6001 0).r.madr.extractLsb' 0 4 ≠ 0#4 ∧ (withRegs 0x1008 1 0x6001 0).r.qwc ≠ 0#32) ∧
      (withRegs 0x1008 1 0x6001 0).r.tadr.extractLsb' 0 4 ≠ 0#4 ∧ (0x0000000F : Word).extractLsb' 0 4 ≠ 0#4 ∧
      ({ addr := 0x3008, qwc := 1 } : TagFields).addr.extractLsb' 0 4 ≠ 0#4 := by decide
theorem witness_EmptyOrUnmappedElement_empty : (withRegs 0x1008 0 0 0).r.qwc = 0#32 := by decide
theorem witness_EmptyOrUnmappedElement_unmapped :
    (withRegs 0xFFFF0000 3 0 0).r.qwc ≠ 0#32 ∧ (withRegs 0xFFFF0000 3 0 0).r.madr.extractLsb' 0 4 = 0#4 ∧
      isMapped (withRegs 0xFFFF0000 3 0 0).platform (withRegs 0xFFFF0000 3 0 0).r.madr = false := by decide
theorem witness_ElementTransferAccounts :
    (withRegs 0xFFFFFFF0 0xFFFFFFFF 0 0).r.qwc ≠ 0#32 ∧ (withRegs 0xFFFFFFF0 0xFFFFFFFF 0 0).r.madr.extractLsb' 0 4 = 0#4 ∧
      isMapped (withRegs 0xFFFFFFF0 0xFFFFFFFF 0 0).platform (withRegs 0xFFFFFFF0 0xFFFFFFFF 0 0).r.madr = true := by decide
/-- At the largest offset the block's own rules produce. -/
theorem witness_ElementTransferConservesWords :
    (let s := replying [⟨false, 6, {}⟩] (resuming ⟨true, 4⟩ (withRegs 0x1000 3 0 0))
     s.r.qwc ≠ 0#32 ∧ isMapped s.platform s.r.madr = true ∧ (s.v.resumeOffset.enabled = true → s.v.resumeOffset.wordCount ≤ 4)) ∧
      ∃ u, exec .elem (replying [⟨false, 6, {}⟩] (resuming ⟨true, 4⟩ (withRegs 0x1000 3 0 0))) = .next u :=
  ⟨by decide, of_completes (by decide)⟩
theorem witness_CoreKeepsAddressesAligned :
    (withRegs 0x1000 3 0x6000 0x10).r.quadAligned = true ∧
      ∀ i ∈ [Instr.elem, .chainAdvance .ret, .call { qwc := 1, addr := 0x2000 }, .tagFetch, .driverStep, .syncStep],
        completes i (replying [⟨true, 0, {}⟩] (holding 0x6000 [1, 0, 0, 0x70, 0, 0, 0, 0, 0, 0, 0, 0, 0, 0, 0, 0]
          (withRegs 0x1000 3 0x6000 0x10))) = true := by decide
theorem witness_DriverDefersToSynchronizer :
    (opened true false 2).r.onQuadwords = true ∧
      (applyEffects { setWaiting := true } (opened true false 2)).v.waitingForCoprocessor = true := by decide
theorem witness_InterruptStallSuspends_flag :
    let s := irqStalled 2 (phase true true (withRegs 0x5000 3 0 0x101))
    s.r.onQuadwords = true ∧ s.v.waitingForCoprocessor = false ∧ s.v.stall = ⟨true, .irqStall⟩ ∧ 0 < s.v.pendingIrqCount ∧
      (s.t.stopped = true ∨ s.t.irqStalled = true ∨ s.t.otherStall = true ∨ isExempt s.platform s.v.cmd = false) ∧
      (s.r.qwc ≠ 0#32 ∨ s.v.done = false) := by decide
/-- An exempt command, another stall sub-state, nothing left but the chain not done. -/
theorem witness_InterruptStallSuspends_exempt :
    let s := applyEffects { cmd := some 5, status := { otherStall := some true } } (irqStalled 1 (phase false false (withRegs 0 0 0 0x101)))
    s.r.onQuadwords = true ∧ s.v.waitingForCoprocessor = false ∧ s.v.stall = ⟨true, .irqStall⟩ ∧ 0 < s.v.pendingIrqCount ∧
      (s.t.stopped = true ∨ s.t.irqStalled = true ∨ s.t.otherStall = true ∨ isExempt s.platform s.v.cmd = false) ∧
      (s.r.qwc ≠ 0#32 ∨ s.v.done = false) := by decide
/-- A step with no interrupt due, and one whose interrupt does not suspend it: the command is exempt, no stall sub-state active
(95_test_vectors.md 2.6 row 3). -/
theorem witness_DriverTransfersElement :
    [replying [⟨true, 0, {}⟩] (opened true false 2),
      applyEffects { cmd := some 5 } (irqStalled 1 (replying [⟨true, 0, {}⟩] (opened true true 3)))].map (fun s =>
        [s.r.onQuadwords, s.v.waitingForCoprocessor, irqDue s.v, suspendsOnIrq s, s.v.inProgress,
          completes .elem (arbitrated s)]) =
      [[true, false, false, false, true, true], [true, false, true, false, true, true]] := by decide
/-- An empty element, one with words left, and an empty one with an interrupt due and nothing left after it. -/
theorem witness_DriverStepOnElementCompletes :
    [opened true true 0, opened true true 2, irqStalled 1 (opened true true 0)].map (fun s =>
        [s.r.onQuadwords, s.v.waitingForCoprocessor, irqDue s.v, suspendsOnIrq s, s.v.inProgress]) =
      [[true, false, false, false, true], [true, false, false, false, true], [true, false, true, false, true]] := by decide
/-- Held by the enable flag, without and with an interrupt due that does not suspend; held by the stopped sub-state. -/
theorem witness_DriverContinuesChain_held :
    [forceStop (opened false false 0), applyEffects { cmd := some 5 } (irqStalled 1 (forceStop (opened false false 0))),
      applyEffects { status := { stopped := some true } } (opened false false 0)].map (fun s =>
        [s.r.onQuadwords, s.v.waitingForCoprocessor, irqDue s.v, suspendsOnIrq s, s.v.inProgress, s.v.done, s.g.dmaEnable,
          s.t.stopped]) =
      [[true, false, false, false, false, false, false, false], [true, false, true, false, false, false, false, false],
        [true, false, false, false, false, false, true, true]] := by decide
theorem witness_DriverContinuesChain_fetches :
    let s := holding 0x6000 [1, 0, 0, 0x70, 0, 0, 0, 0, 0, 0, 0, 0, 0, 0, 0, 0] (opened false false 0)
    s.r.onQuadwords = true ∧ s.v.waitingForCoprocessor = false ∧ suspendsOnIrq s = false ∧ s.v.inProgress = false ∧
      s.v.done = false ∧ s.g.dmaEnable = true ∧ s.t.stopped = false ∧ completes .tagFetch (arbitrated s) = true := by decide
/-- No interrupt due and no queued program; an interrupt due with nothing left (2.6 row 5) and a queued program (2.7 step 11). -/
theorem witness_DriverFinalizesDoneRun :
    [opened false true 0, applyEffects { queuedProgramPending := some true } (irqStalled 1 (opened false true 0))].map (fun s =>
        [s.r.onQuadwords, s.v.waitingForCoprocessor, irqDue s.v, suspendsOnIrq s, s.v.inProgress, s.v.done,
          s.v.queuedProgramPending]) =
      [[true, false, false, false, false, true, false], [true, false, true, false, false, true, true]] := by decide
theorem witness_FinalizeClosesRun :
    bench.v.queuedProgramPending = false ∧
      (applyEffects { queuedProgramPending := some true } bench).v.queuedProgramPending = true ∧
      (nextQueued { bench with env := { bench.env with queued := [⟨true, {}⟩] } }).fx.queuedProgramPending = none ∧
      (nextQueued { bench with env := { bench.env with queued := [⟨true, {}⟩] } }).fx.stall = none := by decide
theorem witness_QueueDepthFollowsCount : ∃ u, exec .driverStep (opened true true 0) = .next u :=
  of_completes (by decide)
theorem witness_FinalizesOnlyWhenDone :
    (after .driverStep (opened false true 0)).map (fun u => u.trace.head?) = some (some (.stepEnd .done)) := by decide
theorem witness_ClearRunBitOnlyLogs :
    let s := clearRun (opened false true 0)
    s.r.chcr.run = false ∧ completes .driverStep { s with r := { s.r with chcr := { s.r.chcr with run := true } } } = true := by
  decide
/-- A step that schedules its own event, one that schedules the synchronizer's, one that goes idle, one that is done. -/
theorem witness_DriverStepEndsInOneOutcome :
    [opened true true 0, applyEffects { setWaiting := true } (opened true true 0), forceStop (opened false false 0),
        opened false true 0].map (fun s => (after .driverStep s).bind (fun u => u.trace.head?)) =
      [some (.stepEnd (.rescheduleAfter 0)), some (.stepEnd (.rescheduleAfter 7)), some (.stepEnd .idle),
        some (.stepEnd .done)] := by decide
theorem witness_DriverStepPulsesLine :
    ∃ u, exec .driverStep (irqStalled 1 (phase false true (withRegs 0x5000 0 0 0x101))) = .next u :=
  of_completes (by decide)
theorem witness_IdleCoprocessorReleasesWait_left :
    bench.p.busy = false ∧ bench.p.stopped = false ∧ bench.v.waitingForCoprocessor = false := by decide
theorem witness_IdleCoprocessorReleasesWait_reinvoked :
    let s := applyEffects { setWaiting := true } (withRegs 0x1000 2 0 0x101)
    s.p.busy = false ∧ s.p.stopped = false ∧ s.v.waitingForCoprocessor = true ∧ s.h.pendDriver = none ∧ s.r.chcr.run = true ∧
      s.t.stopped = false ∧ s.t.irqStalled = false ∧ s.t.otherStall = false := by decide
theorem witness_HeldCoprocessorIsRechecked_stopped :
    ({ bench with p := ⟨false, true, 8, 0⟩ } : State).p.busy = false ∧
      ({ bench with p := ⟨false, true, 8, 0⟩ } : State).p.stopped = true := by decide
/-- 95_test_vectors.md 2.8 row 3. -/
theorem witness_HeldCoprocessorIsRechecked_paced :
    let s : State := { bench with
      platform := { vectorPlatform with pacing := true }, p := ⟨true, false, 8, 0⟩, h := { bench.h with now := 5 } }
    s.p.busy = true ∧ s.platform.pacing = true ∧
      ((clockAt s.h s.h.pendSync : Nat) : Int) - (s.p.elapsedCycles : Int) < (s.p.nextBlockCost : Int) := by decide
/-- 2.8 rows 4, 5 and 7: one block and then the gap is too small; two blocks and the program ends; one block that stops. -/
theorem witness_HeldCoprocessorIsRechecked_blocks :
    let paced (now : Nat) (bs : List BlockReply) : State := { bench with
      platform := { vectorPlatform with pacing := true }, p := ⟨true, false, 8, 0⟩, h := { bench.h with now := now }
      env := { bench.env with blocks := bs } }
    (catchesUpIn 1 (syncDelivered (paced 8 [⟨false, false, 8, 8, {}⟩])) ∧
      (afterBlocks 1 (syncDelivered (paced 8 [⟨false, false, 8, 8, {}⟩]))).p.busy = true) ∧
    (catchesUpIn 2 (syncDelivered (paced 20 [⟨false, false, 8, 8, {}⟩, ⟨true, false, 8, 8, {}⟩])) ∧
      (afterBlocks 2 (syncDelivered (paced 20 [⟨false, false, 8, 8, {}⟩, ⟨true, false, 8, 8, {}⟩]))).p.busy = false ∧
      (afterBlocks 2 (syncDelivered (paced 20 [⟨false, false, 8, 8, {}⟩, ⟨true, false, 8, 8, {}⟩]))).p.stopped = false) ∧
    (catchesUpIn 1 (syncDelivered (paced 8 [⟨true, true, 8, 8, {}⟩])) ∧
      (afterBlocks 1 (syncDelivered (paced 8 [⟨true, true, 8, 8, {}⟩]))).p.stopped = true) := by
  unfold catchesUpIn lagsBehind
  decide
/-- Any number of blocks that are listed is within the loop's fuel, and so are the witness's two. -/
theorem witness_HeldCoprocessorIsRechecked_fuel (s : State) (n : Nat) (h : n ≤ s.env.blocks.length) :
    n ≤ catchUpRounds (syncDelivered s) := by
  simp only [catchUpRounds, syncDelivered]; omega
/-- A step that completes, with the loop ended. -/
theorem witness_HeldCoprocessorIsRechecked_completes :
    (after .syncStep { bench with p := ⟨false, true, 8, 0⟩ }).map (·.hung) = some false := by decide
theorem witness_SynchronizerChargesNothing :
    (after .syncStep { bench with p := ⟨true, false, 8, 100⟩, env := { bench.env with blocks := [⟨true, false, 8, 8, {}⟩] } }).map
      (fun u => driverSteps u.trace) = some (driverSteps bench.trace) := by decide
/-- 95_test_vectors.md 2.8 row 4, no block listed, no wait recorded. -/
theorem witness_PacedCatchUpEnds :
    let s : State := { bench with
      platform := { vectorPlatform with pacing := true }, p := ⟨true, false, 8, 0⟩, h := { bench.h with now := 8 } }
    s.platform.pacing = true ∧ s.v.waitingForCoprocessor = false := by decide
theorem witness_UnpackKeepsItsLaws : (Instr.unpack [1, 2] 2 true).wf = true := by decide
theorem witness_CoprocessorPortsKeepTheirLaws :
    (nextQueued { bench with env := { bench.env with queued := [⟨true, {}⟩] } }).fx.queuedProgramPending = none ∧
      (nextQueued { bench with env := { bench.env with queued := [⟨true, {}⟩] } }).fx.coproc.busy = none := by decide
theorem witness_MemoryPortKeepsItsLaws :
    (0xFFFFFFF0 : Word).extractLsb' 0 4 = 0#4 ∧ isMapped bench.platform 0xFFFFFFF0 = true ∧ (drawFetchStall bench).1 = false ∧
      (0xFFFF0000 : Word).extractLsb' 0 4 = 0#4 ∧ isMapped bench.platform 0xFFFF0000 = false := by decide
theorem witness_HostMovesDoOneThing : bench.h.pendDriver = none ∧ (opened true true 0).h.pendDriver ≠ none := by decide
theorem witness_StatusWriteAndAcknowledge : bench.h.pendDriver = none ∧ (opened true true 0).h.pendDriver ≠ none := by decide
theorem witness_HostStoreReadsBack :
    (Instr.memWrite 0xFFFFFFFF [0x12, 0x34]).wf = true ∧ ([0x12, 0x34] : List Byte)[1]? = some 0x34 ∧
      ∀ j < ([0x12, 0x34] : List Byte).length, (1 : Word) ≠ 0xFFFFFFFF + BitVec.ofNat 32 j := by decide
theorem witness_StartOperationsOpenRuns :
    bench.r.chcr.run = false ∧ bench.t.stopped = false ∧ bench.t.irqStalled = false ∧ bench.t.otherStall = false ∧
      (4 : Word) ≠ 0#32 ∧ (0xFFFFFFF0 : Word).extractLsb' 0 4 = 0#4 ∧ bench.r.tadr.extractLsb' 0 4 = 0#4 ∧
      bench.r.madr.extractLsb' 0 4 = 0#4 ∧ (withRegs 8 0 0 0x101).r.chcr.run = true := by decide
/-- Nothing pending; one event; the driver's due at 4 and the synchronizer's at 130, at 5 and at 3, both at 4. -/
theorem witness_RunDeliversUntilNonePending :
    [bench, opened true true 0, scheduleEvent .sync 128 bench, scheduleEvent .sync 128 (opened true true 0),
        scheduleEvent .sync 1 (scheduleEvent .driver 3 (opened true true 0)), scheduleEvent .sync 2 (opened true true 0)].map
        (fun s => (s.h.pendDriver.map dueAt, s.h.pendSync.map dueAt)) =
      [(none, none), (some 4, none), (none, some 128), (some 4, some 130), (some 5, some 3), (some 4, some 4)] := by decide
/-- A sound state with memory listed, a pending event and a pending offset, and a step from it that stores at the top. -/
theorem witness_StepKeepsSoundState :
    let s := { holding 0xFFFFFFFF [1, 2] (resuming ⟨true, 4⟩ (opened true true 2)) with
      inputs := [.move (.memWrite 0xFFFFFFFE [3, 4, 5])] }
    s.sound = true ∧ (stepped s).isSome = true := by decide
theorem witness_OnlyHostStoresWriteMemory :
    (∀ a bytes, Instr.driverStep ≠ .memWrite a bytes) ∧
      ∃ t, exec .driverStep (holding 0x1000 [1, 2] (opened true true 0)) = .next t :=
  ⟨(by intro _ _ h; cases h), of_completes (by decide)⟩
theorem witness_OnlyHostWritesControlBits :
    writesChcr (.call { qwc := 1 }) = false ∧ ∃ t, exec (.call { qwc := 1 }) (withRegs 0 0 0x1000 0x105) = .next t :=
  ⟨by decide, of_completes (by decide)⟩
/-- A step in which the run bit falls. -/
theorem witness_RunBitFallsOnlyAtFinalize :
    writesChcr .driverStep = false ∧ Instr.driverStep ≠ .runClear ∧ (opened false true 0).r.chcr.run = true ∧
      (after .driverStep (opened false true 0)).map (fun t => t.r.chcr.run) = some false := by decide
/-- An ordinary step, and a reset. -/
theorem witness_StepKeepsParametersAndRecord :
    (stepped { opened true true 0 with inputs := [.event [0]] }).isSome = true ∧
      (stepped { opened true true 0 with inputs := [.move .reset] }).isSome = true := by decide

end Sys2Proof.Tests
end

section
/-! PROOFS. What a step of the block leaves alone, whatever operation it makes: the relation `Within` for the parts of a
driver step, `EndsStep` for a whole one, `Onward` for every operation but a reset. -/

namespace Sys2Proof.Machine

/-! ### A part of a step -/

/-- `t` comes after `s` within one step: the parameters, the clock and both event slots are the same, and the port calls
recorded since end no driver step (00_scope.md R12). -/
structure Within (s t : State) : Prop where
  platform : t.platform = s.platform
  now : t.h.now = s.h.now
  pendDriver : t.h.pendDriver = s.h.pendDriver
  pendSync : t.h.pendSync = s.h.pendSync
  calls : ∃ calls, t.trace = calls ++ s.trace ∧ driverSteps calls = 0

/-- The driver steps a trace records are those of its parts. -/
theorem driverSteps_append (a b : List TraceEvent) : driverSteps (a ++ b) = driverSteps a + driverSteps b :=
  List.countP_append

theorem Within.refl (s : State) : Within s s := ⟨rfl, rfl, rfl, rfl, [], rfl, rfl⟩

theorem Within.trans {s t u : State} (hst : Within s t) (htu : Within t u) : Within s u := by
  obtain ⟨a, hta, ha⟩ := hst.calls
  obtain ⟨b, hub, hb⟩ := htu.calls
  exact ⟨htu.platform.trans hst.platform, htu.now.trans hst.now, htu.pendDriver.trans hst.pendDriver,
    htu.pendSync.trans hst.pendSync, b ++ a, by rw [hub, hta, List.append_assoc],
    by rw [driverSteps_append, ha, hb]⟩

/-! ### The ports within a step -/

theorem within_freshDraws (s : State) : Within s (freshDraws s) := ⟨rfl, rfl, rfl, rfl, [], rfl, rfl⟩

theorem within_translate (a : Word) (s : State) : Within s (translate a s).2 := ⟨rfl, rfl, rfl, rfl, [_], rfl, rfl⟩

theorem within_fetchTag (a : Word) (s : State) : Within s (fetchTag a s).2 := by
  unfold fetchTag
  split
  · exact ⟨rfl, rfl, rfl, rfl, [_, _], rfl, rfl⟩
  · dsimp only
    split
    · exact ⟨rfl, rfl, rfl, rfl, [_, _], rfl, rfl⟩
    · exact ⟨rfl, rfl, rfl, rfl, [_], rfl, rfl⟩

theorem within_unpack (ws : List Word) (n : Nat) (b : Bool) (s : State) : Within s (unpack ws n b s).2 := by
  unfold unpack
  dsimp only
  split
  · exact ⟨rfl, rfl, rfl, rfl, [_], rfl, rfl⟩
  · exact ⟨rfl, rfl, rfl, rfl, [_, _], rfl, rfl⟩

theorem within_setStallFlag (b : Bool) (s : State) : Within s (setStallFlag b s) := ⟨rfl, rfl, rfl, rfl, [_], rfl, rfl⟩

theorem within_raiseLine (c : IrqCause) (s : State) : Within s (raiseLine c s) := ⟨rfl, rfl, rfl, rfl, [_], rfl, rfl⟩

theorem within_logMessage (m : LogMessage) (s : State) : Within s (logMessage m s) := ⟨rfl, rfl, rfl, rfl, [_], rfl, rfl⟩

theorem within_executeBlock (s : State) : Within s (executeBlock s) := ⟨rfl, rfl, rfl, rfl, [_], rfl, rfl⟩

theorem within_finishPass (s : State) : Within s (finishPass s) := ⟨rfl, rfl, rfl, rfl, [_], rfl, rfl⟩

theorem within_executeQueuedProgram (s : State) : Within s (executeQueuedProgram s) :=
  ⟨rfl, rfl, rfl, rfl, [_], rfl, rfl⟩

/-! ### Tags and elements within a step -/

theorem within_noteStack (k : TagKind) (s : State) : Within s (noteStack k s) := by
  unfold noteStack
  split
  · exact ⟨rfl, rfl, rfl, rfl, [_], rfl, rfl⟩
  · exact .refl s

theorem within_chainAdvance (k : TagKind) (s : State) : Within s (chainAdvance k s).2 :=
  (within_noteStack k s).trans ⟨rfl, rfl, rfl, rfl, [_], rfl, rfl⟩

theorem within_loadTag (k : TagKind) (f : TagFields) (s : State) : Within s (loadTag k f s) :=
  ⟨rfl, rfl, rfl, rfl, [], rfl, rfl⟩

theorem within_armResume (s : State) : Within s (armResume s) :=
  ⟨by simp, by simp, by simp, by simp, [], by simp, rfl⟩

theorem within_refuseTagData (n : Nat) (s : State) : Within s (refuseTagData n s) := ⟨rfl, rfl, rfl, rfl, [], rfl, rfl⟩

/-- A tag is done with: the offset is cleared, the kind's chain-advance made, the marks set (41_chain_walker.md R142 to R145). -/
theorem within_completeTag (k : TagKind) (f : TagFields) (s : State) : Within s (completeTag k f s) :=
  have cleared : Within s { s with v := { s.v with resumeOffset := ⟨false, 0⟩ } } := ⟨rfl, rfl, rfl, rfl, [], rfl, rfl⟩
  (cleared.trans (within_chainAdvance k _)).trans ⟨rfl, rfl, rfl, rfl, [], rfl, rfl⟩

theorem within_feedTagData (k : TagKind) (f : TagFields) (s : State) : Within s (feedTagData k f s) := by
  have charge (n : Nat) (u : State) : Within u { u with h := { u.h with cycles := u.h.cycles + xferCost u.platform n } } :=
    ⟨rfl, rfl, rfl, rfl, [], rfl, rfl⟩
  have fed := (within_armResume s).trans (within_unpack ((maskedTag f).drop (tagDataOffset s.v)) (4 - tagDataOffset s.v) true _)
  unfold feedTagData
  dsimp only
  split
  · exact (fed.trans (charge _ _)).trans (within_completeTag k f _)
  · exact (fed.trans (charge _ _)).trans (within_refuseTagData _ _)

theorem within_consumeTag (k : TagKind) (f : TagFields) (s : State) : Within s (consumeTag k f s) := by
  unfold consumeTag
  split
  · exact (within_loadTag k f s).trans (within_feedTagData k f _)
  · exact (within_loadTag k f s).trans (within_completeTag k f _)

theorem within_processTag {k : TagKind} {f : TagFields} {s t : State} (h : processTag k f s = .next t) : Within s t := by
  obtain ⟨_, rfl⟩ := processTag_eq_next h
  exact within_consumeTag k f s

theorem within_tagFetch {s t : State} (h : tagFetch s = .next t) : Within s t := by
  obtain ⟨_, ⟨_, rfl⟩ | ⟨q, _, _, rfl⟩⟩ := tagFetch_eq_next h
  · exact within_fetchTag _ s
  · exact (within_fetchTag _ s).trans (within_consumeTag _ _ _)

theorem within_account (n : Nat) (s : State) : Within s (account n s) := ⟨rfl, rfl, rfl, rfl, [], rfl, rfl⟩

theorem within_discardElement (s : State) : Within s (discardElement s) := ⟨rfl, rfl, rfl, rfl, [_], rfl, rfl⟩

theorem within_feedElement (s : State) : Within s (feedElement s).2 :=
  ((within_freshDraws s).trans (within_unpack _ _ _ _)).trans (within_account _ _)

theorem within_elem {s : State} {x : Bool × State} (h : elem s = .next x) : Within s x.2 := by
  obtain ⟨_, rfl⟩ | ⟨_, _, _, rfl⟩ | ⟨_, _, _, rfl⟩ := elem_eq_next h
  · exact ⟨rfl, rfl, rfl, rfl, [], rfl, rfl⟩
  · exact (within_translate _ s).trans (within_discardElement _)
  · exact (within_translate _ s).trans (within_feedElement _)

/-! ### The driver's actions within a step -/

theorem within_openStep (s : State) : Within s (openStep s) := by
  unfold openStep
  dsimp only
  split
  · exact ⟨rfl, rfl, rfl, rfl, [], rfl, rfl⟩
  · exact ⟨rfl, rfl, rfl, rfl, [_, _], rfl, rfl⟩

theorem within_notePeerPath (s : State) : Within s (notePeerPath s) := by
  unfold notePeerPath
  split
  · exact ⟨rfl, rfl, rfl, rfl, [_, _], rfl, rfl⟩
  · exact .refl s

theorem within_signalIrq (s : State) : Within s (signalIrq s) := ⟨rfl, rfl, rfl, rfl, [_], rfl, rfl⟩

theorem within_clearStall (s : State) : Within s (clearStall s) := ⟨rfl, rfl, rfl, rfl, [], rfl, rfl⟩

theorem within_closeRun (s : State) : Within s (closeRun s) := ⟨rfl, rfl, rfl, rfl, [], rfl, rfl⟩

theorem within_runQueued (s : State) : Within s (runQueued s) := by
  unfold runQueued
  split
  · exact within_executeQueuedProgram s
  · exact .refl s

theorem within_signalCompletion (s : State) : Within s (signalCompletion s) := ⟨rfl, rfl, rfl, rfl, [_, _], rfl, rfl⟩

theorem within_finalize (s : State) : Within s (finalize s) :=
  ((within_closeRun s).trans (within_runQueued _)).trans (within_signalCompletion _)

/-! ### The end of a driver step -/

/-- What the outcome a driver step names says of the states before and after it (00_scope.md R12). -/
inductive StepOutcome (s u : State) : StepEnd → Prop
  | ownEvent (n : Nat) : u.h.pendDriver = some ⟨n, u.h.now⟩ → u.h.pendSync = s.h.pendSync →
      StepOutcome s u (.rescheduleAfter n)
  | handedOver (n : Nat) : u.h.pendSync = some ⟨n, u.h.now⟩ → u.h.pendDriver = s.h.pendDriver →
      StepOutcome s u (.rescheduleAfter n)
  | idle : u.h.pendDriver = s.h.pendDriver → u.h.pendSync = s.h.pendSync → u.r.chcr.run = s.r.chcr.run →
      StepOutcome s u .idle
  | done : u.h.pendDriver = s.h.pendDriver → u.h.pendSync = s.h.pendSync → u.r.chcr.run = false →
      StepOutcome s u .done

/-- `u` is the end of a driver step begun in `s`: the parameters and the clock are the same, and the trace records one outcome,
last, which the slots and the run bit bear out. -/
def EndsStep (s u : State) : Prop :=
  u.platform = s.platform ∧ u.h.now = s.h.now ∧
    ∃ e calls, u.trace = .stepEnd e :: (calls ++ s.trace) ∧ driverSteps calls = 0 ∧ StepOutcome s u e

/-- A step that registers its own event ends with `rescheduleAfter`. -/
theorem endsStep_endAfter {s x : State} (n : Nat) (h : Within s x) : EndsStep s (endAfter .driver n x) := by
  obtain ⟨calls, htr, hc⟩ := h.calls
  exact ⟨h.platform, h.now, _, .scheduleEvent .driver n :: calls, congrArg (_ :: _ :: ·) htr, hc, .ownEvent n rfl h.pendSync⟩

/-- Steps 8 and 9 end by registering the driver's event (44_completion_driver.md R175, R176). -/
theorem endsStep_reschedule {s x : State} (h : Within s x) : EndsStep s (reschedule x) :=
  endsStep_endAfter _ (h.trans ⟨rfl, rfl, rfl, rfl, [], rfl, rfl⟩)

/-- Step 3 registers the synchronizer's event (R170). -/
theorem endsStep_deferToSync {s x : State} (h : Within s x) : EndsStep s (deferToSync x) := by
  obtain ⟨calls, htr, hc⟩ := h.calls
  exact ⟨h.platform, h.now, _, .setStallFlag true :: .scheduleEvent .sync x.platform.syncDeferDelay :: calls,
    congrArg (_ :: _ :: _ :: ·) htr, hc, .handedOver _ rfl h.pendDriver⟩

/-- A step that registers nothing and keeps the run bit ends with `idle`. -/
theorem endsStep_endIdle {s x : State} (h : Within s x) (hr : x.r.chcr.run = s.r.chcr.run) : EndsStep s (endIdle x) := by
  obtain ⟨calls, htr, hc⟩ := h.calls
  exact ⟨h.platform, h.now, _, calls, congrArg (_ :: ·) htr, hc, .idle h.pendDriver h.pendSync hr⟩

/-- Step 11 registers nothing and clears the run bit (R178). -/
theorem endsStep_finalize {s x : State} (h : Within s x) : EndsStep s (emit (.stepEnd .done) (finalize x)) := by
  have hf := h.trans (within_finalize x)
  obtain ⟨calls, htr, hc⟩ := hf.calls
  exact ⟨hf.platform, hf.now, _, calls, congrArg (_ :: ·) htr, hc, .done hf.pendDriver hf.pendSync (by simp)⟩

/-- Steps 8 to 11 end the driver step they are part of, whichever of them acts (R175 to R178). -/
theorem progress_endsStep {s x t : State} (hx : Within s x) (hr : x.r.chcr.run = s.r.chcr.run) (h : progress x = .next t) :
    EndsStep s t := by
  obtain ⟨_, y, hy, rfl⟩ | ⟨_, _, _, rfl⟩ | ⟨_, _, _, _, y, hy, rfl⟩ | ⟨_, _, _, rfl⟩ | ⟨_, _, _, rfl⟩ := progress_eq_next h
  · exact endsStep_reschedule (hx.trans (within_elem hy))
  · exact endsStep_endIdle hx hr
  · exact endsStep_reschedule (hx.trans (within_tagFetch hy))
  · exact endsStep_endAfter 0 hx
  · exact endsStep_finalize hx

/-- A suspension registers nothing (R172). -/
theorem endsStep_suspend {s x : State} (h : Within s x) (hr : x.r.chcr.run = s.r.chcr.run) : EndsStep s (suspend x) :=
  endsStep_endIdle (h.trans ⟨rfl, rfl, rfl, rfl, [_], rfl, rfl⟩) hr

/-- Every driver step that answers ends in one outcome (00_scope.md R12). -/
theorem driverStep_endsStep {s t : State} (h : driverStep s = .next t) : EndsStep s t := by
  have opened := within_openStep s
  have noted := opened.trans (within_notePeerPath _)
  obtain ⟨_, ⟨_, rfl⟩ | ⟨_, hc⟩⟩ := driverStep_eq_next h
  · exact endsStep_deferToSync opened
  · have signalled := noted.trans (within_signalIrq _)
    obtain ⟨_, _, rfl⟩ | ⟨_, _, hp⟩ | ⟨_, hp⟩ := coalesce_eq_next hc
    · exact endsStep_suspend signalled (by simp)
    · exact progress_endsStep (signalled.trans (within_clearStall _)) (by simp) hp
    · exact progress_endsStep (noted.trans (within_clearStall _)) (by simp) hp

/-! ### From operation to operation -/

/-- `t` comes after `s`: the parameters are the same, the trace has only grown, the clock has not gone back. -/
structure Onward (s t : State) : Prop where
  platform : t.platform = s.platform
  trace : s.trace <:+ t.trace
  now : s.h.now ≤ t.h.now

theorem Onward.refl (s : State) : Onward s s := ⟨rfl, List.suffix_rfl, le_rfl⟩

theorem Onward.trans {s t u : State} (hst : Onward s t) (htu : Onward t u) : Onward s u :=
  ⟨htu.platform.trans hst.platform, hst.trace.trans htu.trace, hst.now.trans htu.now⟩

theorem Within.onward {s t : State} (h : Within s t) : Onward s t := by
  obtain ⟨calls, htr, _⟩ := h.calls
  exact ⟨h.platform, ⟨calls, htr.symm⟩, h.now.ge⟩

theorem EndsStep.onward {s t : State} (h : EndsStep s t) : Onward s t := by
  obtain ⟨hp, hn, e, calls, htr, _, _⟩ := h
  exact ⟨hp, ⟨.stepEnd e :: calls, htr.symm⟩, hn.ge⟩

/-- An operation that always completes goes on as its next state does. -/
theorem onward_of_next {s t u : State} (hu : Onward s u) (h : (.next u : Res State) = .next t) : Onward s t := by
  cases h
  exact hu

theorem onward_scheduleEvent (ev : EventId) (n : Nat) (s : State) : Onward s (scheduleEvent ev n s) := by
  cases ev <;> exact ⟨rfl, List.suffix_cons .., le_rfl⟩

theorem onward_hostRead (reg : Reg) (s : State) : Onward s (hostRead reg s) := ⟨rfl, List.suffix_cons .., le_rfl⟩

theorem onward_hostWrite (reg : Reg) (v : Word) (s : State) : Onward s (hostWrite reg v s) := ⟨rfl, List.suffix_rfl, le_rfl⟩

theorem onward_applyStatusWrite (w : StatusWrite) (s : State) : Onward s (applyStatusWrite w s) :=
  ⟨rfl, List.suffix_rfl, le_rfl⟩

theorem onward_clearRun (s : State) : Onward s (clearRun s) := ⟨rfl, List.suffix_rfl, le_rfl⟩

theorem onward_forceStop (s : State) : Onward s (forceStop s) := ⟨rfl, List.suffix_rfl, le_rfl⟩

theorem onward_redrive (n : Nat) (s : State) : Onward s (redrive n s) := by
  unfold redrive
  split
  · exact onward_scheduleEvent .driver n s
  · exact .refl s

theorem onward_acknowledge (n : Nat) (s : State) : Onward s (acknowledge n s) :=
  ((onward_applyStatusWrite _ s).trans (onward_applyStatusWrite _ _)).trans (onward_redrive n _)

theorem onward_openRun (s : State) : Onward s (openRun s) := by
  have prepared : Onward s (kickoffPrepare s) := ⟨rfl, List.suffix_cons .., le_rfl⟩
  unfold openRun
  split
  · exact prepared
  · exact prepared.trans (onward_scheduleEvent _ _ _)

theorem onward_kickoff {s t : State} (h : kickoff s = .next t) : Onward s t := by
  obtain ⟨_, rfl⟩ := kickoff_eq_next h
  exact onward_openRun s

theorem onward_hostWriteChcr {v : Word} {s t : State} (h : hostWriteChcr v s = .next t) : Onward s t := by
  obtain ⟨_, rfl⟩ | ⟨_, _, _, rfl⟩ := hostWriteChcr_eq_next h
  · exact onward_hostWrite .chcr v s
  · exact (onward_hostWrite .chcr v s).trans (onward_openRun _)

theorem onward_startNormal {madr n : Word} {s t : State} (h : startNormal madr n s = .next t) : Onward s t :=
  ((onward_hostWrite .madr madr s).trans (onward_hostWrite .qwc n _)).trans (onward_hostWriteChcr h)

theorem onward_startChain {tadr : Word} {tte tie : Bool} {s t : State} (h : startChain tadr tte tie s = .next t) :
    Onward s t :=
  ((onward_hostWrite .tadr tadr s).trans (onward_hostWrite .qwc 0 _)).trans (onward_hostWriteChcr h)

theorem onward_execFetchTag {a : Word} {s t : State} (h : execFetchTag a s = .next t) : Onward s t := by
  unfold execFetchTag at h
  split at h
  · cases h
  · exact onward_of_next (within_fetchTag a s).onward h

theorem onward_execElem {s t : State} (h : execElem s = .next t) : Onward s t := by
  obtain ⟨x, hx, ht⟩ := andThen_eq_next.1 h
  cases ht
  exact (within_elem hx).onward.trans ⟨rfl, List.suffix_cons .., le_rfl⟩

/-! ### Delivery of an event -/

/-- A delivery moves the clock on, to the cycle the event is due (45_interfaces.md R189). -/
theorem onward_deliver (ev : EventId) (s : State) : Onward s (deliver ev s) := by
  unfold deliver
  split
  · exact .refl s
  · exact ⟨rfl, List.suffix_rfl, le_max_left ..⟩

theorem onward_comeDue (ev : EventId) (s : State) : Onward s (comeDue ev s) := by
  unfold comeDue
  split
  · exact .refl s
  · exact ⟨rfl, List.suffix_rfl, (le_max_left ..).trans (Nat.le_add_right ..)⟩

theorem onward_execDriverStep {s t : State} (h : execDriverStep s = .next t) : Onward s t :=
  (onward_deliver .driver s).trans (driverStep_endsStep h).onward

theorem onward_catchUp (n : Nat) (s : State) : Onward s (catchUp n s) :=
  catchUp_keeps (P := Onward s) (fun t h => h.trans (within_executeBlock t).onward) n (.refl s)

theorem onward_recheck (s : State) : Onward s (recheck s) :=
  (onward_scheduleEvent .sync Config.syncRecheckDelay s).trans (within_setStallFlag true _).onward

/-- The synchronizer with the co-processor idle clears marks, and at most makes a driver step (43_vu_synchronizer.md R165). -/
theorem onward_releaseWait {s t : State} (h : releaseWait s = .next t) : Onward s t := by
  unfold releaseWait at h
  dsimp only at h
  split at h
  · split at h
    · obtain ⟨hp, htr, hn⟩ := (driverStep_endsStep h).onward
      exact ⟨hp, htr, hn⟩
    · cases h
      exact ⟨rfl, List.suffix_rfl, le_rfl⟩
  · cases h
    exact ⟨rfl, List.suffix_rfl, le_rfl⟩

theorem onward_afterCatchUp {s t : State} (h : afterCatchUp s = .next t) : Onward s t := by
  obtain ⟨_, rfl⟩ | ⟨_, _, hr⟩ := afterCatchUp_eq_next h
  · exact onward_recheck s
  · exact onward_releaseWait hr

theorem onward_syncStep {s t : State} (h : syncStep s = .next t) : Onward s t := by
  have caughtUp := onward_catchUp (catchUpRounds s) s
  unfold syncStep at h
  dsimp only at h
  split at h
  · cases h
    exact caughtUp.trans ⟨rfl, List.suffix_rfl, le_rfl⟩
  · exact caughtUp.trans (onward_afterCatchUp h)

theorem onward_execSyncStep {s t : State} (h : execSyncStep s = .next t) : Onward s t :=
  (onward_deliver .sync s).trans (onward_syncStep h)

theorem onward_execEvent {ev : EventId} {s t : State} (h : execEvent ev s = .next t) : Onward s t := by
  cases ev
  · exact onward_execDriverStep h
  · exact onward_execSyncStep h

theorem onward_execRun {s t : State} (h : execRun s = .next t) : Onward s t := by
  unfold execRun at h
  split at h
  · exact onward_of_next (.refl s) h
  next ev _ =>
    have queued : Onward s { s with inputs := .move .run :: s.inputs } := ⟨rfl, List.suffix_rfl, le_rfl⟩
    exact (queued.trans (onward_comeDue ev _)).trans (onward_execEvent h)

/-! ### Every operation -/

/-- No operation but a reset changes a parameter, takes back the trace or turns the clock back (00_scope.md R9, 10_state.md R70). -/
theorem exec_onward {i : Instr} {s t : State} (hi : i ≠ .reset) (h : exec i s = .next t) : Onward s t := by
  cases i with
  | refe f | cnt f | next f | ref f | refs f | call f | ret f | endTag f => exact (within_processTag h).onward
  | rdChcr | rdMadr | rdQwc | rdTadr | rdAsr0 | rdAsr1 => exact onward_of_next (onward_hostRead _ s) h
  | wrMadr v | wrQwc v | wrTadr v | wrAsr0 v | wrAsr1 v => exact onward_of_next (onward_hostWrite _ v s) h
  | wrChcr v => exact onward_hostWriteChcr h
  | driverStep => exact onward_execDriverStep h
  | syncStep => exact onward_execSyncStep h
  | kickoff => exact onward_kickoff h
  | elem => exact onward_execElem h
  | tagFetch => exact (within_tagFetch h).onward
  | finalize => exact onward_of_next (within_finalize s).onward h
  | runClear => exact onward_of_next (onward_clearRun s) h
  | redrive n => exact onward_of_next (onward_redrive n s) h
  | forceStop => exact onward_of_next (onward_forceStop s) h
  | statusWrite w => exact onward_of_next (onward_applyStatusWrite w s) h
  | memWrite a bytes => cases h; exact ⟨rfl, List.suffix_rfl, le_rfl⟩
  | reset => exact absurd rfl hi
  | translate a => exact onward_of_next (within_translate a s).onward h
  | fetchTag a => exact onward_execFetchTag h
  | unpack ws n b => exact onward_of_next (within_unpack ws n b s).onward h
  | chainAdvance k => exact onward_of_next (within_chainAdvance k s).onward h
  | scheduleEvent ev n => exact onward_of_next (onward_scheduleEvent ev n s) h
  | setStallFlag b => exact onward_of_next (within_setStallFlag b s).onward h
  | raiseLine c => exact onward_of_next (within_raiseLine c s).onward h
  | log m => exact onward_of_next (within_logMessage m s).onward h
  | executeBlock => exact onward_of_next (within_executeBlock s).onward h
  | finishPass => exact onward_of_next (within_finishPass s).onward h
  | executeQueuedProgram => exact onward_of_next (within_executeQueuedProgram s).onward h
  | startNormal madr n => exact onward_startNormal h
  | startChain tadr tte tie => exact onward_startChain h
  | ack n => exact onward_of_next (onward_acknowledge n s) h
  | forceStopPseudo => exact onward_of_next (onward_applyStatusWrite _ s) h
  | run => exact onward_execRun h

/-! ### What a step takes up -/

/-- A frame only decodes to an operation that has an encoding (30_encoding.md R96). -/
theorem encode_isSome_of_decode {f : Frame} {i : Instr} (h : decode f = .ok i) : (encode i).isSome = true := by
  unfold decode at h
  split at h
  next =>
    split at h
    · cases h
      unfold decodeTag
      cases tagKindOf (BitVec.ofNat 128 (ofLeBytes f.bytes)) <;> rfl
    · cases h
  next =>
    split at h
    · split at h
      next r _ => cases h; cases r <;> rfl
      · cases h
    · cases h
  next =>
    split at h
    · split at h
      next r _ => cases h; cases r <;> rfl
      · cases h
    · cases h
  next =>
    split at h
    next b _ => cases h; cases eventOfBit (b.extractLsb' 0 1) <;> rfl
    · cases h

theorem takeFrame_of_decode {f : Frame} {i : Instr} (s : State) (h : decode f = .ok i) : takeFrame f s = exec i s := by
  unfold takeFrame
  rw [h]

/-- A frame that is taken up has been decoded to an operation, which is no reset: a reset has no encoding. -/
theorem takeFrame_eq_next {f : Frame} {s t : State} (h : takeFrame f s = .next t) :
    ∃ i, decode f = .ok i ∧ i ≠ .reset ∧ exec i s = .next t := by
  unfold takeFrame at h
  split at h
  next i hd => exact ⟨i, hd, fun hi => by simpa [hi, encode] using encode_isSome_of_decode hd, h⟩
  next => cases h

theorem takeMove_of_wf {m : HostMove} (s : State) (h : m.instr.wf = true) : takeMove m s = exec m.instr s := if_pos h

/-- A move that is taken up is an operation within its bounds. -/
theorem takeMove_eq_next {m : HostMove} {s t : State} (h : takeMove m s = .next t) :
    m.instr.wf = true ∧ exec m.instr s = .next t := by
  unfold takeMove at h
  split at h
  next hw => exact ⟨hw, h⟩
  next => cases h

/-- The one move that is a reset. -/
theorem instr_ne_reset {m : HostMove} (h : m ≠ .reset) : m.instr ≠ .reset := by
  cases m <;> simp_all [HostMove.instr]

theorem takeFrame_onward {f : Frame} {s t : State} (h : takeFrame f s = .next t) : Onward s t := by
  obtain ⟨i, _, hi, he⟩ := takeFrame_eq_next h
  exact exec_onward hi he

theorem takeInput_onward {x : Input} {s t : State} (hx : x ≠ .move .reset) (h : takeInput x s = .next t) : Onward s t := by
  cases x with
  | read bytes | write bytes | event bytes => exact takeFrame_onward h
  | move m => exact exec_onward (instr_ne_reset fun hm => hx (hm ▸ rfl)) (takeMove_eq_next h).2
  | wait n => cases h; exact ⟨rfl, List.suffix_rfl, Nat.le_add_right ..⟩

theorem selfDeliver_onward {s t : State} (h : selfDeliver s = .next t) : Onward s t := by
  unfold selfDeliver at h
  split at h
  · exact onward_of_next (.refl s) h
  next ev _ =>
    have hev : ev.instr ≠ .reset := by cases ev <;> simp [EventId.instr]
    exact (onward_comeDue ev s).trans (exec_onward hev h)

/-- A machine with a step under way that never completes stays as it is (93_implementation_defined.md U8). -/
theorem step_of_hung {s : State} (h : s.hung = true) : step s = .next s := if_pos h

theorem step_of_input {s : State} {x : Input} {rest : List Input} (hh : s.hung = false) (hin : s.inputs = x :: rest) :
    step s = takeInput x { s with inputs := rest } := by
  simp only [step, hh, hin, Bool.false_eq_true, if_false]

theorem step_of_no_input {s : State} (hh : s.hung = false) (hin : s.inputs = []) : step s = selfDeliver s := by
  simp only [step, hh, hin, Bool.false_eq_true, if_false]

/-- Taking a move off the inputs is no part of what the move does. -/
theorem onward_takeOff (rest : List Input) (s : State) : Onward s { s with inputs := rest } :=
  ⟨rfl, List.suffix_rfl, le_rfl⟩

/-- A step that takes up no reset goes on. -/
theorem step_onward {s t : State} (hr : ∀ rest, s.inputs ≠ .move .reset :: rest) (h : step s = .next t) : Onward s t := by
  cases hh : s.hung with
  | true => exact onward_of_next (.refl s) (step_of_hung hh ▸ h)
  | false =>
    cases hin : s.inputs with
    | nil => exact selfDeliver_onward (step_of_no_input hh hin ▸ h)
    | cons x rest =>
      have hx : x ≠ .move .reset := fun hx => hr rest (hx ▸ hin)
      exact (onward_takeOff rest s).trans (takeInput_onward hx (step_of_input hh hin ▸ h))

/-- A step that takes up a reset keeps the parameters and the trace all the same (70_reset_and_hazards.md R218, log 5). -/
theorem step_of_reset {s t : State} {rest : List Input} (hin : s.inputs = .move .reset :: rest) (h : step s = .next t) :
    t.platform = s.platform ∧ t.trace = s.trace := by
  cases hh : s.hung with
  | true => rw [step_of_hung hh] at h; cases h; exact ⟨rfl, rfl⟩
  | false => rw [step_of_input hh hin] at h; cases (takeMove_eq_next h).2; exact ⟨rfl, rfl⟩

end Sys2Proof.Machine

/-! ### The statements on the scope of a step -/

namespace Sys2Proof.Proofs

open Sys2Proof.Machine

/-- Settles O39: `driverStep_endsStep` at the state the event is delivered in, whose own slot is empty. -/
theorem driverStepEndsInOneOutcome : Obligations.DriverStepEndsInOneOutcome := by
  intro s u h
  obtain ⟨_, _, e, calls, htr, hcalls, ho⟩ := driverStep_endsStep (s := deliver .driver s) h
  rw [deliver_trace] at htr
  refine ⟨e, calls ++ s.trace, htr, by rw [driverSteps_append, hcalls, Nat.zero_add], ?_⟩
  cases ho with
  | ownEvent n hd hs => exact ⟨fun m hm => .inl (by simp_all), nofun, nofun⟩
  | handedOver n hs hd => exact ⟨fun m hm => .inr (by simp_all), nofun, nofun⟩
  | idle hd hs hr => exact ⟨nofun, fun _ => by simp_all, nofun⟩
  | done hd hs hr => exact ⟨nofun, nofun, fun _ => by simp_all⟩

/-- Settles O60: a step either takes up a reset or goes on. -/
theorem stepKeepsParametersAndRecord : Obligations.StepKeepsParametersAndRecord := by
  intro s t h
  by_cases hr : ∃ rest, s.inputs = .move .reset :: rest
  · obtain ⟨rest, hin⟩ := hr
    obtain ⟨hp, htr⟩ := step_of_reset hin h
    exact ⟨hp, htr ▸ List.suffix_rfl, .inr ⟨rest, hin⟩⟩
  · obtain ⟨hp, htr, hn⟩ := step_onward (not_exists.1 hr) h
    exact ⟨hp, htr, .inl hn⟩

/-- Settles O5: a step takes up the head of the inputs, and a frame that decodes or a move within its bounds is its operation. -/
theorem stepRunsDecodedInput : Obligations.StepRunsDecodedInput := by
  intro s rest
  refine ⟨step_of_hung, fun hh => ⟨?_, ?_, ?_, ?_, ?_⟩⟩
  · exact fun bytes i hin hd => (step_of_input hh hin).trans (takeFrame_of_decode _ hd)
  · exact fun bytes i hin hd => (step_of_input hh hin).trans (takeFrame_of_decode _ hd)
  · exact fun bytes i hin hd => (step_of_input hh hin).trans (takeFrame_of_decode _ hd)
  · exact fun m hin hw => (step_of_input hh hin).trans (takeMove_of_wf _ hw)
  · exact fun n hin => step_of_input hh hin

end Sys2Proof.Proofs
end

section
/-! PROOFS. What the block's own operations keep of the state: soundness, aligned addresses, the host's bits of the control
register and the run bit. `Quiet` for the parts of a step, `Settles` for every operation that is not the host's own write. -/

namespace Sys2Proof.Machine

/-! ### Aligned addresses -/

theorem aligned_iff (a : Word) : aligned a = true ↔ a.toNat % 16 = 0 := by
  simp [aligned, ← BitVec.toNat_inj]

/-- Whole quadwords on from an aligned address is an aligned address, the wrap at the top included (10_state.md R37). -/
theorem aligned_addrPlus {a : Word} {n : Nat} (ha : aligned a = true) (hn : 16 ∣ n) : aligned (addrPlus a n) = true := by
  rw [aligned_iff] at ha ⊢
  rw [addrPlus, BitVec.toNat_add, BitVec.toNat_ofNat]
  omega

theorem quadAligned_iff (r : Regs) : r.quadAligned = true ↔
    aligned r.madr = true ∧ aligned r.tadr = true ∧ aligned r.asr0 = true ∧ aligned r.asr1 = true := by
  simp [Regs.quadAligned, and_assoc]

/-- Chain-advance moves among quadword boundaries, whatever the kind (R37). -/
theorem advance_quadAligned {k : TagKind} {r : Regs} (h : r.quadAligned = true) : (advance k r).1.quadAligned = true := by
  obtain ⟨hm, ht, h0, h1⟩ := (quadAligned_iff r).1 h
  have hTag : aligned (afterTag r) = true := aligned_addrPlus ht (by omega)
  have hData : aligned (afterTagData r) = true := aligned_addrPlus hTag (by omega)
  rw [quadAligned_iff]
  cases k with
  | refe | ref | refs => exact ⟨hm, hTag, h0, h1⟩
  | cnt => exact ⟨hTag, hData, h0, h1⟩
  | next => exact ⟨hTag, hm, h0, h1⟩
  | endTag => exact ⟨hTag, ht, h0, h1⟩
  | call =>
    unfold advance advanceCall
    dsimp only
    split
    · exact ⟨hTag, hm, hData, h1⟩
    · exact ⟨hTag, hm, h0, hData⟩
    · exact ⟨hTag, ht, h0, h1⟩
  | ret =>
    unfold advance advanceRet
    dsimp only
    split
    · exact ⟨hTag, h1, h0, rfl⟩
    · exact ⟨hTag, h0, rfl, h1⟩
    · exact ⟨hTag, ht, h0, h1⟩

/-- Accounting moves the address by whole quadwords (41_chain_walker.md R131). -/
theorem account_quadAligned {n : Nat} {s : State} (h : s.r.quadAligned = true) : (account n s).r.quadAligned = true := by
  obtain ⟨hm, ht, h0, h1⟩ := (quadAligned_iff s.r).1 h
  exact (quadAligned_iff _).2 ⟨aligned_addrPlus hm (Nat.dvd_mul_right ..), ht, h0, h1⟩

/-- A fetched tag with an aligned address field loads an aligned address (R134). -/
theorem loadTag_quadAligned {k : TagKind} {f : TagFields} {s : State} (hf : aligned f.addr = true)
    (h : s.r.quadAligned = true) : (loadTag k f s).r.quadAligned = true := by
  obtain ⟨_, ht, h0, h1⟩ := (quadAligned_iff s.r).1 h
  exact (quadAligned_iff _).2 ⟨hf, ht, h0, h1⟩

/-! ### Sound states -/

/-- A pending resume offset is within a quadword (10_state.md R37). -/
def ResumeOffset.withinQuad (o : ResumeOffset) : Prop :=
  o.enabled = true → o.wordCount ≤ 4

theorem sound_iff (s : State) : s.sound = true ↔ Memory.wf s.mem = true ∧ s.t.queueDepth ≤ 8 ∧
    s.v.resumeOffset.withinQuad ∧ notFuture s.h s.h.pendDriver = true ∧ notFuture s.h s.h.pendSync = true := by
  cases he : s.v.resumeOffset.enabled <;> simp [State.sound, ResumeOffset.withinQuad, he, and_assoc]

/-- A queue depth up to 8 may be put in. -/
theorem sound_of_status {s : State} {t : Status} (hs : s.sound = true) (ht : t.queueDepth ≤ 8) :
    { s with t := t }.sound = true := by
  obtain ⟨hm, _, ho, hd, hy⟩ := (sound_iff s).1 hs
  exact (sound_iff _).2 ⟨hm, ht, ho, hd, hy⟩

/-- A resume offset within a quadword may be put in. -/
theorem sound_of_runtime {s : State} {v : Runtime} (hs : s.sound = true) (hv : v.resumeOffset.withinQuad) :
    { s with v := v }.sound = true := by
  obtain ⟨hm, ht, _, hd, hy⟩ := (sound_iff s).1 hs
  exact (sound_iff _).2 ⟨hm, ht, hv, hd, hy⟩

/-- Hidden state may be put in that has no registration in the future. -/
theorem sound_of_hidden {s : State} {h : Hidden} (hs : s.sound = true) (hd : notFuture h h.pendDriver = true)
    (hy : notFuture h h.pendSync = true) : { s with h := h }.sound = true := by
  obtain ⟨hm, ht, ho, _, _⟩ := (sound_iff s).1 hs
  exact (sound_iff _).2 ⟨hm, ht, ho, hd, hy⟩

/-- A registration in the past stays there as the clock goes on. -/
theorem notFuture_of_le {h h' : Hidden} {x : Option Pending} (hn : h.now ≤ h'.now) (hx : notFuture h x = true) :
    notFuture h' x = true := by
  cases x with
  | none => rfl
  | some p => exact decide_eq_true ((of_decide_eq_true hx).trans hn)

/-- The clock may go on. -/
theorem sound_of_now_le {s : State} {n : Nat} (hs : s.sound = true) (hn : s.h.now ≤ n) :
    { s with h := { s.h with now := n } }.sound = true := by
  obtain ⟨_, _, _, hd, hy⟩ := (sound_iff s).1 hs
  exact sound_of_hidden hs (notFuture_of_le hn hd) (notFuture_of_le hn hy)

/-- A registration that is not in the future may be put in a slot. -/
theorem sound_of_setPending {s : State} {ev : EventId} {x : Option Pending} (hs : s.sound = true)
    (hx : notFuture s.h x = true) : { s with h := setPending ev x s.h }.sound = true := by
  obtain ⟨_, _, _, hd, hy⟩ := (sound_iff s).1 hs
  cases ev
  · exact sound_of_hidden hs hx hy
  · exact sound_of_hidden hs hd hx

theorem depthOf_le (q : Word) : depthOf q ≤ 8 :=
  Nat.min_le_right ..

/-- The words a tag-data feed has delivered are at most the four of a tag. -/
theorem tagData_delivered_le (v : Runtime) (r : UnpackReply) :
    tagDataOffset v + takenOf r (4 - tagDataOffset v) ≤ 4 := by
  have taken := takenOf_le r (4 - tagDataOffset v)
  have skipped : tagDataOffset v ≤ 4 := by
    unfold tagDataOffset
    split
    · exact Nat.min_le_right ..
    · decide
  omega

/-! ### A part of a step -/

/-- What every operation of the block keeps: a sound state, aligned addresses, the host's bits of the control register. -/
structure Keeps (s t : State) : Prop where
  sound : s.sound = true → t.sound = true
  aligned : s.r.quadAligned = true → t.r.quadAligned = true
  hostOnly : t.r.chcr.hostOnly = s.r.chcr.hostOnly

theorem Keeps.trans {s t u : State} (hst : Keeps s t) (htu : Keeps t u) : Keeps s u :=
  ⟨htu.sound ∘ hst.sound, htu.aligned ∘ hst.aligned, htu.hostOnly.trans hst.hostOnly⟩

/-- `t` comes after `s` with the run bit as it was and no completion signalled. -/
structure Quiet (s t : State) : Prop where
  keeps : Keeps s t
  run : t.r.chcr.run = s.r.chcr.run
  pulses : pulses .completion t.trace = pulses .completion s.trace

theorem Quiet.refl (s : State) : Quiet s s := ⟨⟨id, id, rfl⟩, rfl, rfl⟩

theorem Quiet.trans {s t u : State} (hst : Quiet s t) (htu : Quiet t u) : Quiet s u :=
  ⟨hst.keeps.trans htu.keeps, htu.run.trans hst.run, htu.pulses.trans hst.pulses⟩

/-- A record of anything but a completion is quiet. -/
theorem quiet_emit {e : TraceEvent} (s : State) (he : e ≠ .raiseLine .completion := by nofun) : Quiet s (emit e s) :=
  ⟨⟨id, id, rfl⟩, rfl, List.count_cons_of_ne he⟩

/-! ### The ports within a step -/

theorem quiet_freshDraws (s : State) : Quiet s (freshDraws s) := ⟨⟨id, id, rfl⟩, rfl, rfl⟩

theorem quiet_translate (a : Word) (s : State) : Quiet s (translate a s).2 := quiet_emit s

theorem quiet_fetchStalled (a : Word) (s : State) : Quiet s (fetchStalled a s).2 :=
  (quiet_emit s).trans (quiet_emit _)

theorem quiet_fetchTag (a : Word) (s : State) : Quiet s (fetchTag a s).2 := by
  have drew : Quiet s (drawFetchStall s).2 := ⟨⟨id, id, rfl⟩, rfl, rfl⟩
  unfold fetchTag
  split
  · exact quiet_fetchStalled a s
  · dsimp only
    split
    · exact drew.trans (quiet_fetchStalled a _)
    · exact (drew.trans (quiet_emit _)).trans (quiet_freshDraws _)

/-- A collaborator's effects reach neither the registers nor what soundness speaks of (45_interfaces.md R186). -/
theorem quiet_applyEffects (fx : Effects) (s : State) : Quiet s (applyEffects fx s) := ⟨⟨id, id, rfl⟩, rfl, rfl⟩

theorem quiet_unpack (ws : List Word) (n : Nat) (b : Bool) (s : State) : Quiet s (unpack ws n b s).2 := by
  have drew : Quiet s { s with env := { s.env with
      unpacks := s.env.unpacks.tail, draws := drawsAfter s.env.unpacks s.env.draws } } := ⟨⟨id, id, rfl⟩, rfl, rfl⟩
  have noted := drew.trans (quiet_emit (e := .unpack ws b s.v.resumeOffset (nextUnpack s).consumed
    (takenOf (nextUnpack s) n)) _)
  unfold unpack
  dsimp only
  split
  · exact noted.trans (quiet_applyEffects _ _)
  · exact (noted.trans (quiet_emit _)).trans (quiet_applyEffects _ _)

/-- A registration is made now (45_interfaces.md R188). -/
theorem quiet_scheduleEvent (ev : EventId) (n : Nat) (s : State) : Quiet s (scheduleEvent ev n s) := by
  have registered : Quiet s { s with h := setPending ev (some ⟨n, s.h.now⟩) s.h } :=
    ⟨⟨fun hs => sound_of_setPending hs (decide_eq_true le_rfl), id, rfl⟩, rfl, rfl⟩
  exact registered.trans (quiet_emit _)

theorem quiet_setStallFlag (b : Bool) (s : State) : Quiet s (setStallFlag b s) := by
  have marked : Quiet s { s with h := { s.h with stallInd := b } } := ⟨⟨id, id, rfl⟩, rfl, rfl⟩
  exact marked.trans (quiet_emit _)

theorem quiet_logMessage (m : LogMessage) (s : State) : Quiet s (logMessage m s) := quiet_emit s

theorem quiet_executeBlock (s : State) : Quiet s (executeBlock s) := ⟨⟨id, id, rfl⟩, rfl, rfl⟩

theorem quiet_finishPass (s : State) : Quiet s (finishPass s) := ⟨⟨id, id, rfl⟩, rfl, rfl⟩

theorem quiet_executeQueuedProgram (s : State) : Quiet s (executeQueuedProgram s) := ⟨⟨id, id, rfl⟩, rfl, rfl⟩

/-- Delivery empties a slot and moves the clock on (45_interfaces.md R189). -/
theorem quiet_deliver (ev : EventId) (s : State) : Quiet s (deliver ev s) := by
  unfold deliver
  split
  · exact .refl s
  next p _ =>
    have later {h : Hidden} (hs : { s with h := h }.sound = true) :
        { s with h := { h with now := max h.now (p.since + p.delay) } }.sound = true :=
      sound_of_now_le hs (le_max_left ..)
    have emptied (hs : s.sound = true) : { s with h := setPending ev none s.h }.sound = true := sound_of_setPending hs rfl
    refine ⟨⟨fun hs => ?_, id, rfl⟩, rfl, rfl⟩
    cases ev <;> exact later (emptied hs)

theorem quiet_comeDue (ev : EventId) (s : State) : Quiet s (comeDue ev s) := by
  unfold comeDue
  split
  · exact .refl s
  next p _ =>
    have later : Quiet s { s with h := { s.h with
        now := max s.h.now (p.since + p.delay) + Config.freeLateness s.env.draws } } :=
      ⟨⟨fun hs => sound_of_now_le hs ((le_max_left ..).trans (Nat.le_add_right ..)), id, rfl⟩, rfl, rfl⟩
    exact later.trans (quiet_freshDraws _)

/-! ### Tags and elements within a step -/

/-- Chain-advance writes the three pointers, the two saved addresses and the stack pointer (42_chain_tags.md R148). -/
theorem quiet_chainAdvance (k : TagKind) (s : State) : Quiet s (chainAdvance k s).2 := by
  have noted : Quiet s (noteStack k s) := by
    unfold noteStack
    split
    · exact quiet_emit s
    · exact .refl s
  have advanced : Quiet (noteStack k s) { noteStack k s with r := (advance k s.r).1 } := by
    obtain ⟨_, asp, hc⟩ := advance_keeps k s.r
    refine ⟨⟨id, fun ha => advance_quadAligned (by simpa using ha), ?_⟩, ?_, rfl⟩
    · simp [hc, Chcr.hostOnly]
    · simp [hc]
  exact (noted.trans advanced).trans (quiet_emit _)

theorem quiet_loadTag {k : TagKind} {f : TagFields} (hf : aligned f.addr = true) (s : State) : Quiet s (loadTag k f s) :=
  ⟨⟨id, loadTag_quadAligned hf, rfl⟩, rfl, rfl⟩

/-- Runtime state with a resume offset within a quadword may be put in. -/
theorem quiet_of_runtime {s : State} {v : Runtime} (hv : v.resumeOffset.withinQuad) : Quiet s { s with v := v } :=
  ⟨⟨fun hs => sound_of_runtime hs hv, id, rfl⟩, rfl, rfl⟩

theorem quiet_armResume (s : State) : Quiet s (armResume s) := by
  unfold armResume
  split
  · exact .refl s
  · exact quiet_of_runtime fun _ => show 2 ≤ 4 by decide

theorem quiet_completeTag (k : TagKind) (f : TagFields) (s : State) : Quiet s (completeTag k f s) := by
  have cleared : Quiet s { s with v := { s.v with resumeOffset := ⟨false, 0⟩ } } := quiet_of_runtime nofun
  exact (cleared.trans (quiet_chainAdvance k _)).trans ⟨⟨id, id, rfl⟩, rfl, rfl⟩

/-- A refused feed leaves what was delivered of the tag as the resume offset (41_chain_walker.md R141). -/
theorem quiet_refuseTagData {n : Nat} (hn : n ≤ 4) (s : State) : Quiet s (refuseTagData n s) :=
  ⟨⟨fun hs => sound_of_runtime hs fun _ => hn, id, rfl⟩, rfl, rfl⟩

theorem quiet_feedTagData (k : TagKind) (f : TagFields) (s : State) : Quiet s (feedTagData k f s) := by
  have charge (n : Nat) (u : State) : Quiet u { u with h := { u.h with cycles := u.h.cycles + xferCost u.platform n } } :=
    ⟨⟨id, id, rfl⟩, rfl, rfl⟩
  have fed := (quiet_armResume s).trans (quiet_unpack ((maskedTag f).drop (tagDataOffset s.v)) (4 - tagDataOffset s.v) true _)
  unfold feedTagData
  dsimp only
  split
  · exact (fed.trans (charge _ _)).trans (quiet_completeTag k f _)
  · exact (fed.trans (charge _ _)).trans (quiet_refuseTagData (tagData_delivered_le ..) _)

theorem quiet_consumeTag {k : TagKind} {f : TagFields} (hf : aligned f.addr = true) (s : State) :
    Quiet s (consumeTag k f s) := by
  unfold consumeTag
  split
  · exact (quiet_loadTag hf s).trans (quiet_feedTagData k f _)
  · exact (quiet_loadTag hf s).trans (quiet_completeTag k f _)

theorem quiet_processTag {k : TagKind} {f : TagFields} {s t : State} (h : processTag k f s = .next t) : Quiet s t := by
  obtain ⟨hf, rfl⟩ := processTag_eq_next h
  exact quiet_consumeTag hf s

theorem quiet_tagFetch {s t : State} (h : tagFetch s = .next t) : Quiet s t := by
  obtain ⟨_, ⟨_, rfl⟩ | ⟨q, _, hf, rfl⟩⟩ := tagFetch_eq_next h
  · exact quiet_fetchTag _ s
  · exact (quiet_fetchTag _ s).trans (quiet_consumeTag hf _)

/-- What is left of a quadword is less than four words (41_chain_walker.md R131). -/
theorem quiet_account (n : Nat) (s : State) : Quiet s (account n s) := by
  have rest : (account n s).v.resumeOffset.withinQuad := by
    rw [account_v]
    dsimp only
    split
    · nofun
    · intro _
      dsimp only
      omega
  exact ⟨⟨fun hs => sound_of_runtime hs rest, account_quadAligned, rfl⟩, rfl, rfl⟩

theorem quiet_discardElement (s : State) : Quiet s (discardElement s) := ⟨⟨id, id, rfl⟩, rfl, rfl⟩

theorem quiet_elem {s : State} {x : Bool × State} (h : elem s = .next x) : Quiet s x.2 := by
  obtain ⟨_, rfl⟩ | ⟨_, _, _, rfl⟩ | ⟨_, _, _, rfl⟩ := elem_eq_next h
  · exact ⟨⟨id, id, rfl⟩, rfl, rfl⟩
  · exact (quiet_translate _ s).trans (quiet_discardElement _)
  · exact (((quiet_translate _ s).trans (quiet_freshDraws _)).trans (quiet_unpack _ _ _ _)).trans (quiet_account _ _)

/-! ### The driver's and the synchronizer's actions within a step -/

/-- The queue depth may be put at the count remaining, capped at 8 (10_state.md R64). -/
theorem quiet_of_depthOf (s : State) : Quiet s { s with t := { s.t with queueDepth := depthOf s.r.qwc } } :=
  ⟨⟨fun hs => sound_of_status hs (depthOf_le _), id, rfl⟩, rfl, rfl⟩

theorem quiet_openStep (s : State) : Quiet s (openStep s) := by
  have fresh : Quiet s { s with h := { s.h with cycles := 0 }, t := { s.t with queueDepth := depthOf s.r.qwc } } :=
    (quiet_of_depthOf s).trans ⟨⟨id, id, rfl⟩, rfl, rfl⟩
  unfold openStep
  dsimp only
  split
  · exact fresh
  · exact (fresh.trans (quiet_logMessage _ _)).trans (quiet_emit _)

theorem quiet_deferToSync (s : State) : Quiet s (deferToSync s) :=
  ((quiet_scheduleEvent .sync _ s).trans (quiet_setStallFlag true _)).trans (quiet_emit _)

theorem quiet_notePeerPath (s : State) : Quiet s (notePeerPath s) := by
  unfold notePeerPath
  split
  · exact (quiet_logMessage _ s).trans (quiet_emit _)
  · exact .refl s

/-- The pulse of an interrupt stall is no completion (44_completion_driver.md R172). -/
theorem quiet_signalIrq (s : State) : Quiet s (signalIrq s) :=
  (quiet_emit (e := .raiseLine .irqStall) s).trans ⟨⟨id, id, rfl⟩, rfl, rfl⟩

theorem quiet_suspend (s : State) : Quiet s (suspend s) := by
  have marked : Quiet s { s with t := { s.t with decodePhase := .decoding } } := ⟨⟨id, id, rfl⟩, rfl, rfl⟩
  exact (marked.trans (quiet_setStallFlag true _)).trans (quiet_emit _)

theorem quiet_clearStall (s : State) : Quiet s (clearStall s) := ⟨⟨id, id, rfl⟩, rfl, rfl⟩

theorem quiet_endAfter (ev : EventId) (n : Nat) (s : State) : Quiet s (endAfter ev n s) :=
  (quiet_scheduleEvent ev n s).trans (quiet_emit _)

theorem quiet_reschedule (s : State) : Quiet s (reschedule s) :=
  (quiet_of_depthOf s).trans (quiet_endAfter .driver _ _)

theorem quiet_runQueued (s : State) : Quiet s (runQueued s) := by
  unfold runQueued
  split
  · exact quiet_executeQueuedProgram s
  · exact .refl s

theorem quiet_catchUp (n : Nat) (s : State) : Quiet s (catchUp n s) :=
  catchUp_keeps (P := Quiet s) (fun t h => h.trans (quiet_executeBlock t)) n (.refl s)

theorem quiet_recheck (s : State) : Quiet s (recheck s) :=
  (quiet_scheduleEvent .sync _ s).trans (quiet_setStallFlag true _)

/-! ### The host's operations that write no register -/

theorem quiet_hostRead (reg : Reg) (s : State) : Quiet s (hostRead reg s) := quiet_emit s

/-- Kickoff writes no register (40_host_kickoff.md R114 to R121). -/
theorem quiet_openRun (s : State) : Quiet s (openRun s) := by
  have marked : Quiet s { s with
      v := kickoffRuntime s.r s.v
      t := { s.t with queueDepth := depthOf s.r.qwc }
      h := { s.h with cycles := 0 } } := by
    have resume : (kickoffRuntime s.r s.v).resumeOffset = s.v.resumeOffset := by
      unfold kickoffRuntime
      split
      · rfl
      · split <;> rfl
    refine (quiet_of_depthOf s).trans ⟨⟨fun hs => ?_, id, rfl⟩, rfl, rfl⟩
    obtain ⟨_, _, ho, _, _⟩ := (sound_iff _).1 hs
    exact sound_of_runtime hs (resume ▸ ho)
  have prepared : Quiet s (kickoffPrepare s) := marked.trans (quiet_setStallFlag false _)
  unfold openRun
  split
  · exact prepared
  · exact prepared.trans (quiet_scheduleEvent _ _ _)

theorem quiet_kickoff {s t : State} (h : kickoff s = .next t) : Quiet s t := by
  obtain ⟨_, rfl⟩ := kickoff_eq_next h
  exact quiet_openRun s

theorem quiet_redrive (n : Nat) (s : State) : Quiet s (redrive n s) := by
  unfold redrive
  split
  · exact quiet_scheduleEvent .driver n s
  · exact .refl s

theorem quiet_forceStop (s : State) : Quiet s (forceStop s) := ⟨⟨id, id, rfl⟩, rfl, rfl⟩

/-- An owner's write within its bounds puts in a queue depth up to 8 (10_state.md R64). -/
theorem quiet_applyStatusWrite {w : StatusWrite} (hw : w.wf = true) (s : State) : Quiet s (applyStatusWrite w s) := by
  refine ⟨⟨fun hs => ?_, id, rfl⟩, rfl, rfl⟩
  obtain ⟨_, hd, _, _, _⟩ := (sound_iff s).1 hs
  have depth : w.queueDepth.getD s.t.queueDepth ≤ 8 := by
    unfold StatusWrite.wf at hw
    split at hw
    next hq => rw [hq]; exact hd
    next q hq => rw [hq]; exact of_decide_eq_true hw
  exact sound_of_status hs depth

theorem quiet_acknowledge (n : Nat) (s : State) : Quiet s (acknowledge n s) :=
  ((quiet_applyStatusWrite rfl s).trans (quiet_applyStatusWrite rfl _)).trans (quiet_redrive n _)

/-! ### Whole operations -/

/-- `t` comes after `s` by an operation of the block: the run bit does not rise, and falls with exactly one completion. -/
structure Settles (s t : State) : Prop where
  keeps : Keeps s t
  rises : t.r.chcr.run = true → s.r.chcr.run = true
  falls : s.r.chcr.run = true → t.r.chcr.run = false →
    pulses .completion t.trace = pulses .completion s.trace + 1

theorem Quiet.settles {s t : State} (h : Quiet s t) : Settles s t :=
  ⟨h.keeps, fun ht => h.run ▸ ht, fun hs ht => by simp [h.run, hs] at ht⟩

theorem Quiet.trans_settles {s t u : State} (hst : Quiet s t) (htu : Settles t u) : Settles s u :=
  ⟨hst.keeps.trans htu.keeps, fun hu => hst.run ▸ htu.rises hu,
    fun hs hu => hst.pulses ▸ htu.falls (hst.run.trans hs) hu⟩

theorem Settles.trans_quiet {s t u : State} (hst : Settles s t) (htu : Quiet t u) : Settles s u :=
  ⟨hst.keeps.trans htu.keeps, fun hu => hst.rises (htu.run ▸ hu),
    fun hs hu => htu.pulses.trans (hst.falls hs (htu.run ▸ hu))⟩

/-- An operation that always completes settles as its next state does. -/
theorem settles_of_next {s t u : State} (h : (.next u : Res State) = .next t) (hu : Quiet s u) : Settles s t := by
  cases h
  exact hu.settles

/-- A pulse of the line is no write of the run bit. -/
theorem settles_raiseLine (c : IrqCause) (s : State) : Settles s (raiseLine c s) :=
  ⟨⟨id, id, rfl⟩, id, fun hs ht => by simp [hs] at ht⟩

/-- Finalize clears the run bit and signals one completion (44_completion_driver.md R178). -/
theorem settles_finalize (s : State) : Settles s (finalize s) := by
  have closed : Keeps s (closeRun s) := ⟨fun hs => sound_of_runtime hs nofun, id, rfl⟩
  have ran := quiet_runQueued (closeRun s)
  have signalled : Keeps (runQueued (closeRun s)) (finalize s) :=
    ⟨fun hs => sound_of_status (t := { (runQueued (closeRun s)).t with queueDepth := 0 }) hs (Nat.zero_le 8), id, rfl⟩
  have once : pulses .completion (finalize s).trace = pulses .completion (runQueued (closeRun s)).trace + 1 := by
    simp [finalize, pulses]
  exact ⟨(closed.trans ran.keeps).trans signalled, fun ht => by simp at ht, fun _ _ => once.trans (congrArg (· + 1) ran.pulses)⟩

/-- Steps 8 to 11 of the driver: only the last of them clears the run bit (R175 to R178). -/
theorem settles_progress {s t : State} (h : progress s = .next t) : Settles s t := by
  obtain ⟨_, x, hx, rfl⟩ | ⟨_, _, _, rfl⟩ | ⟨_, _, _, _, x, hx, rfl⟩ | ⟨_, _, _, rfl⟩ | ⟨_, _, _, rfl⟩ := progress_eq_next h
  · exact ((quiet_elem hx).trans (quiet_reschedule _)).settles
  · exact (quiet_emit s).settles
  · exact ((quiet_tagFetch hx).trans (quiet_reschedule _)).settles
  · exact (quiet_endAfter .driver 0 s).settles
  · exact (settles_finalize s).trans_quiet (quiet_emit _)

theorem settles_driverStep {s t : State} (h : driverStep s = .next t) : Settles s t := by
  have opened := quiet_openStep s
  have noted := opened.trans (quiet_notePeerPath _)
  obtain ⟨_, ⟨_, rfl⟩ | ⟨_, hc⟩⟩ := driverStep_eq_next h
  · exact (opened.trans (quiet_deferToSync _)).settles
  · have signalled := noted.trans (quiet_signalIrq _)
    obtain ⟨_, _, rfl⟩ | ⟨_, _, hp⟩ | ⟨_, hp⟩ := coalesce_eq_next hc
    · exact (signalled.trans (quiet_suspend _)).settles
    · exact (signalled.trans (quiet_clearStall _)).trans_settles (settles_progress hp)
    · exact (noted.trans (quiet_clearStall _)).trans_settles (settles_progress hp)

/-- After the catch-up loop the synchronizer makes at most one driver step (43_vu_synchronizer.md R165). -/
theorem settles_afterCatchUp {s t : State} (h : afterCatchUp s = .next t) : Settles s t := by
  obtain ⟨_, rfl⟩ | ⟨_, _, hr⟩ := afterCatchUp_eq_next h
  · exact (quiet_recheck s).settles
  · unfold releaseWait at hr
    dsimp only at hr
    split at hr
    · split at hr
      · have cleared : Quiet s { s with
            t := { s.t with waitPeer := false }
            v := { s.v with waitingForCoprocessor := false } } := ⟨⟨id, id, rfl⟩, rfl, rfl⟩
        exact cleared.trans_settles (settles_driverStep hr)
      · exact settles_of_next hr ⟨⟨id, id, rfl⟩, rfl, rfl⟩
    · exact settles_of_next hr ⟨⟨id, id, rfl⟩, rfl, rfl⟩

theorem settles_syncStep {s t : State} (h : syncStep s = .next t) : Settles s t := by
  have caughtUp := quiet_catchUp (catchUpRounds s) s
  unfold syncStep at h
  dsimp only at h
  split at h
  · exact settles_of_next h (caughtUp.trans ⟨⟨id, id, rfl⟩, rfl, rfl⟩)
  · exact caughtUp.trans_settles (settles_afterCatchUp h)

theorem settles_execEvent {ev : EventId} {s t : State} (h : execEvent ev s = .next t) : Settles s t := by
  cases ev
  · exact (quiet_deliver .driver s).trans_settles (settles_driverStep h)
  · exact (quiet_deliver .sync s).trans_settles (settles_syncStep h)

theorem settles_execRun {s t : State} (h : execRun s = .next t) : Settles s t := by
  unfold execRun at h
  split at h
  · exact settles_of_next h (.refl s)
  next ev _ =>
    have queued : Quiet s { s with inputs := .move .run :: s.inputs } := ⟨⟨id, id, rfl⟩, rfl, rfl⟩
    exact (queued.trans (quiet_comeDue ev _)).trans_settles (settles_execEvent h)

theorem settles_execElem {s t : State} (h : execElem s = .next t) : Settles s t := by
  obtain ⟨x, hx, ht⟩ := andThen_eq_next.1 h
  exact settles_of_next ht ((quiet_elem hx).trans (quiet_emit _))

theorem settles_execFetchTag {a : Word} {s t : State} (h : execFetchTag a s = .next t) : Settles s t := by
  unfold execFetchTag at h
  split at h
  · cases h
  · exact settles_of_next h (quiet_fetchTag a s)

/-- The operations that put a value of the host's into the registers, the status blocks or memory, and reset. -/
def putsValue : Instr → Bool
  | .wrChcr _ | .wrMadr _ | .wrQwc _ | .wrTadr _ | .wrAsr0 _ | .wrAsr1 _ => true
  | .startNormal _ _ | .startChain _ _ _ | .runClear | .statusWrite _ | .memWrite _ _ | .reset => true
  | _ => false

/-- Every operation that puts in no value of the host's keeps what `Settles` says. -/
theorem exec_settles {i : Instr} {s t : State} (hi : putsValue i = false) (h : exec i s = .next t) : Settles s t := by
  cases i with
  | refe f | cnt f | next f | ref f | refs f | call f | ret f | endTag f => exact (quiet_processTag h).settles
  | rdChcr | rdMadr | rdQwc | rdTadr | rdAsr0 | rdAsr1 => exact settles_of_next h (quiet_hostRead _ s)
  | driverStep => exact settles_execEvent (ev := .driver) h
  | syncStep => exact settles_execEvent (ev := .sync) h
  | kickoff => exact (quiet_kickoff h).settles
  | elem => exact settles_execElem h
  | tagFetch => exact (quiet_tagFetch h).settles
  | finalize => cases h; exact settles_finalize s
  | redrive n => exact settles_of_next h (quiet_redrive n s)
  | forceStop => exact settles_of_next h (quiet_forceStop s)
  | translate a => exact settles_of_next h (quiet_translate a s)
  | fetchTag a => exact settles_execFetchTag h
  | unpack ws n b => exact settles_of_next h (quiet_unpack ws n b s)
  | chainAdvance k => exact settles_of_next h (quiet_chainAdvance k s)
  | scheduleEvent ev n => exact settles_of_next h (quiet_scheduleEvent ev n s)
  | setStallFlag b => exact settles_of_next h (quiet_setStallFlag b s)
  | raiseLine c => cases h; exact settles_raiseLine c s
  | log m => exact settles_of_next h (quiet_logMessage m s)
  | executeBlock => exact settles_of_next h (quiet_executeBlock s)
  | finishPass => exact settles_of_next h (quiet_finishPass s)
  | executeQueuedProgram => exact settles_of_next h (quiet_executeQueuedProgram s)
  | ack n => exact settles_of_next h (quiet_acknowledge n s)
  | forceStopPseudo => exact settles_of_next h (quiet_applyStatusWrite rfl s)
  | run => exact settles_execRun h
  | wrChcr | wrMadr | wrQwc | wrTadr | wrAsr0 | wrAsr1 | startNormal | startChain | runClear | statusWrite | memWrite | reset =>
    cases hi

/-! ### Soundness, step by step -/

/-- A write of a register is no matter of soundness. -/
theorem hostWrite_sound (reg : Reg) (v : Word) {s : State} (hs : s.sound = true) : (hostWrite reg v s).sound = true := hs

theorem hostWriteChcr_sound {v : Word} {s t : State} (h : hostWriteChcr v s = .next t) (hs : s.sound = true) :
    t.sound = true := by
  obtain ⟨_, rfl⟩ | ⟨_, _, _, rfl⟩ := hostWriteChcr_eq_next h
  · exact hostWrite_sound .chcr v hs
  · exact (quiet_openRun _).keeps.sound (hostWrite_sound .chcr v hs)

/-- A store keeps memory canonical (20_memory.md R89). -/
theorem storeBytes_sound (a : Word) (bytes : List Byte) {s : State} (hs : s.sound = true) :
    { s with mem := storeBytes s.mem a bytes }.sound = true := by
  obtain ⟨hm, ht, ho, hd, hy⟩ := (sound_iff s).1 hs
  exact (sound_iff _).2 ⟨storeBytes_wf a bytes hm, ht, ho, hd, hy⟩

/-- The reset values are sound with any canonical memory (10_state.md R75 to R77). -/
theorem resetBlock_sound {s : State} (hm : Memory.wf s.mem = true) : (resetBlock s).sound = true :=
  (sound_iff _).2 ⟨hm, Nat.zero_le 8, nofun, rfl, rfl⟩

/-- Every operation within its bounds keeps a sound state sound. -/
theorem exec_sound {i : Instr} {s t : State} (hi : i.wf = true) (h : exec i s = .next t) (hs : s.sound = true) :
    t.sound = true := by
  cases i with
  | wrMadr v | wrQwc v | wrTadr v | wrAsr0 v | wrAsr1 v => cases h; exact hostWrite_sound _ v hs
  | wrChcr v => exact hostWriteChcr_sound h hs
  | startNormal madr n => exact hostWriteChcr_sound h (hostWrite_sound .qwc n (hostWrite_sound .madr madr hs))
  | startChain tadr tte tie => exact hostWriteChcr_sound h (hostWrite_sound .qwc 0 (hostWrite_sound .tadr tadr hs))
  | runClear => cases h; exact hs
  | statusWrite w => cases h; exact (quiet_applyStatusWrite hi s).keeps.sound hs
  | memWrite a bytes => cases h; exact storeBytes_sound a bytes hs
  | reset => cases h; exact resetBlock_sound ((sound_iff s).1 hs).1
  | _ => exact (exec_settles rfl h).keeps.sound hs

/-- The operations with bounds on their operands have no encoding. -/
theorem wf_of_encode_isSome {i : Instr} (h : (encode i).isSome = true) : i.wf = true := by
  cases i with
  | unpack | statusWrite | memWrite => cases h
  | _ => rfl

theorem takeFrame_sound {f : Frame} {s t : State} (h : takeFrame f s = .next t) (hs : s.sound = true) : t.sound = true := by
  obtain ⟨i, hd, _, he⟩ := takeFrame_eq_next h
  exact exec_sound (wf_of_encode_isSome (encode_isSome_of_decode hd)) he hs

theorem takeInput_sound {x : Input} {s t : State} (h : takeInput x s = .next t) (hs : s.sound = true) : t.sound = true := by
  cases x with
  | read bytes | write bytes | event bytes => exact takeFrame_sound h hs
  | move m =>
    obtain ⟨hw, he⟩ := takeMove_eq_next h
    exact exec_sound hw he hs
  | wait n => cases h; exact sound_of_now_le hs (Nat.le_add_right ..)

theorem selfDeliver_sound {s t : State} (h : selfDeliver s = .next t) (hs : s.sound = true) : t.sound = true := by
  unfold selfDeliver at h
  split at h
  · cases h; exact hs
  next ev _ =>
    have hev : ev.instr.wf = true := by cases ev <;> rfl
    exact exec_sound hev h ((quiet_comeDue ev s).keeps.sound hs)

/-! ### The queue depth after a driver step -/

/-- Steps 8 to 11 leave the queue depth at the count remaining, or finalize and zero it (44_completion_driver.md R175 to R178). -/
theorem progress_queueDepth {s t : State} (hd : s.t.queueDepth = depthOf s.r.qwc) (h : progress s = .next t) :
    t.t.queueDepth = depthOf t.r.qwc ∨ (t.trace.head? = some (.stepEnd .done) ∧ t.t.queueDepth = 0) := by
  obtain ⟨_, x, _, rfl⟩ | ⟨_, _, _, rfl⟩ | ⟨_, _, _, _, x, _, rfl⟩ | ⟨_, _, _, rfl⟩ | ⟨_, _, _, rfl⟩ := progress_eq_next h
  · exact .inl rfl
  · exact .inl hd
  · exact .inl rfl
  · exact .inl hd
  · exact .inr ⟨rfl, rfl⟩

/-- Steps 1 to 7 set the queue depth and leave it and the count alone after (R168). -/
theorem driverStep_queueDepth {s t : State} (h : driverStep s = .next t) :
    t.t.queueDepth = depthOf t.r.qwc ∨ (t.trace.head? = some (.stepEnd .done) ∧ t.t.queueDepth = 0) := by
  obtain ⟨_, ⟨_, rfl⟩ | ⟨_, hc⟩⟩ := driverStep_eq_next h
  · exact .inl (by simp)
  · obtain ⟨_, _, rfl⟩ | ⟨_, _, hp⟩ | ⟨_, hp⟩ := coalesce_eq_next hc
    · exact .inl (by simp [signalledStatus])
    · exact progress_queueDepth (by simp [signalledStatus]) hp
    · exact progress_queueDepth (by simp) hp

end Sys2Proof.Machine

/-! ### The statements on the state -/

namespace Sys2Proof.Proofs

open Sys2Proof.Machine

/-- Settles O55: a step is the hang, the delivery of an event, or the taking up of an operation within its bounds. -/
theorem stepKeepsSoundState : Obligations.StepKeepsSoundState := by
  intro s t hs h
  cases hh : s.hung with
  | true => rw [step_of_hung hh] at h; cases h; exact hs
  | false =>
    cases hin : s.inputs with
    | nil => exact selfDeliver_sound (step_of_no_input hh hin ▸ h) hs
    | cons x rest => exact takeInput_sound (s := { s with inputs := rest }) (step_of_input hh hin ▸ h) hs

/-- Settles O28: none of these operations puts in a value of the host's. -/
theorem coreKeepsAddressesAligned : Obligations.CoreKeepsAddressesAligned := by
  intro s u i k f hs hi h
  have own : putsValue i = false := by
    simp only [List.mem_cons, List.not_mem_nil, or_false] at hi
    obtain rfl | rfl | rfl | rfl | rfl | rfl := hi
    case inr.inr.inl => cases k <;> rfl
    all_goals rfl
  exact (exec_settles own h).keeps.aligned hs

/-- Settles O36: `driverStep_queueDepth` at the state the event is delivered in. -/
theorem queueDepthFollowsCount : Obligations.QueueDepthFollowsCount :=
  fun s _ h => driverStep_queueDepth (s := deliver .driver s) h

/-- Settles O58: the other registers' writes, RUN_CLEAR and the stores leave those bits alone, and so do the block's operations. -/
theorem onlyHostWritesControlBits : Obligations.OnlyHostWritesControlBits := by
  intro i s t hi h
  cases i with
  | wrChcr | startNormal | startChain | reset => cases hi
  | wrMadr | wrQwc | wrTadr | wrAsr0 | wrAsr1 | runClear | statusWrite | memWrite => cases h; rfl
  | _ => exact (exec_settles rfl h).keeps.hostOnly

/-- Settles O59: the other registers' writes and the stores leave the run bit alone, and the block's operations settle. -/
theorem runBitFallsOnlyAtFinalize : Obligations.RunBitFallsOnlyAtFinalize := by
  intro i s t hi hc h
  cases i with
  | wrChcr | startNormal | startChain | reset => cases hi
  | runClear => exact absurd rfl hc
  | wrMadr | wrQwc | wrTadr | wrAsr0 | wrAsr1 | statusWrite | memWrite =>
    have same : t.r.chcr = s.r.chcr := by cases h; rfl
    exact ⟨fun ht => same ▸ ht, fun hs ht => by simp [same, hs] at ht⟩
  | _ =>
    have settled := exec_settles rfl h
    exact ⟨settled.rises, settled.falls⟩

/-- Settles O52: `resetBlock` puts each field at its reset value. -/
theorem resetLeavesResetValues : Obligations.ResetLeavesResetValues :=
  fun s => ⟨resetBlock s, rfl, rfl, rfl, rfl, rfl, rfl, rfl, rfl, rfl, rfl, rfl⟩

/-- Settles O56: nothing is listed in memory, queued, resumed or registered. -/
theorem resetStateIsSound : Obligations.ResetStateIsSound :=
  (sound_iff _).2 ⟨rfl, Nat.zero_le 8, nofun, rfl, rfl⟩

end Sys2Proof.Proofs
end

section
/-! PROOFS. The addresses the block works at and the memory it reads: what is refused off a quadword boundary, the tag sixteen
bytes of memory are, and that no operation of the block writes memory (20_memory.md). -/

namespace Sys2Proof.Machine

/-! ### Off a quadword boundary -/

/-- In the statements' words: the low four bits of an address are not all zero (20_memory.md R86). -/
theorem aligned_eq_false_iff (a : Word) : aligned a = false ↔ a.extractLsb' 0 4 ≠ 0#4 := by
  simp [aligned]

theorem onQuadwords_eq_false {r : Regs} (h : r.madr.extractLsb' 0 4 ≠ 0#4 ∨ r.tadr.extractLsb' 0 4 ≠ 0#4) :
    r.onQuadwords = false := by
  simpa only [Regs.onQuadwords, Bool.and_eq_false_iff, aligned_eq_false_iff] using h

theorem kickoff_misaligned {s : State} (h : s.r.onQuadwords = false) :
    kickoff s = .refused (.misalignedRun s.r.madr s.r.tadr) := by
  simp [kickoff, h]

/-- The delivery of the event leaves the addresses as they are, so the step it brings is refused. -/
theorem execDriverStep_misaligned {s : State} (h : s.r.onQuadwords = false) :
    execDriverStep s = .refused (.misalignedRun s.r.madr s.r.tadr) := by
  simp [execDriverStep, driverStep, h]

theorem processTag_misaligned {k : TagKind} {f : TagFields} (s : State) (h : aligned f.addr = false) :
    processTag k f s = .refused (.misalignedField f.addr) := by
  simp [processTag, h]

theorem execElem_misaligned {s : State} (hq : s.r.qwc ≠ 0) (h : aligned s.r.madr = false) :
    execElem s = .refused (.misalignedElement s.r.madr) := by
  have refused : elem s = .refused (.misalignedElement s.r.madr) := by
    rw [elem, if_neg hq, if_pos (by simp [h])]
  rw [execElem, refused, andThen]

theorem tagFetch_misaligned {s : State} (h : aligned s.r.tadr = false) :
    tagFetch s = .refused (.misalignedTag s.r.tadr) := by
  simp [tagFetch, h]

theorem execFetchTag_misaligned {a : Word} (s : State) (h : aligned a = false) :
    execFetchTag a s = .refused (.misalignedTag a) := by
  simp [execFetchTag, h]

/-- A tag as an operation is the processing of its kind, which answers for all eight at once (41_chain_walker.md R134). -/
theorem exec_tagInstr (k : TagKind) (f : TagFields) (s : State) : exec (k.instr f) s = processTag k f s := by
  cases k <;> rfl

/-! ### Bytes and the number they make (20_memory.md R84) -/

/-- The low `n` bytes of a number make the number again, but for what is above them. -/
theorem ofLeBytes_leBytes (n v : Nat) : ofLeBytes (leBytes n v) = v % 256 ^ n := by
  induction n generalizing v with
  | zero => simp [leBytes, ofLeBytes, Nat.mod_one]
  | succ n ih => simp [leBytes, ofLeBytes, ih, Nat.pow_succ', Nat.mod_mul]

theorem leBytes_eq_map_range (n v : Nat) :
    leBytes n v = (List.range n).map fun j => BitVec.ofNat 8 (v / 256 ^ j) := by
  induction n generalizing v with
  | zero => rfl
  | succ n ih => simp [leBytes, ih, List.range_succ_eq_map, Nat.div_div_eq_div_mul, Nat.pow_succ']

/-- A number below `2 ^ 128` is the sixteen bytes it is written as. -/
theorem ofNat_ofLeBytes_quad (q : Quad) : BitVec.ofNat 128 (ofLeBytes (leBytes 16 q.toNat)) = q := by
  have whole : q.toNat % 256 ^ 16 = q.toNat := Nat.mod_eq_of_lt q.isLt
  rw [ofLeBytes_leBytes, whole, BitVec.ofNat_toNat, BitVec.setWidth_eq]

/-- The bytes read from an address on, each at its own address, are those of the quadword there (R83, R84, R89). -/
theorem map_readByte_eq_leBytes (s : State) (a : Word) :
    ((List.range 16).map fun j => readByte s (a + BitVec.ofNat 32 j)) = leBytes 16 (readQuad s a).toNat := by
  rw [leBytes_eq_map_range]
  refine List.map_congr_left fun j hj => ?_
  rw [← readQuad_byte s a j (List.mem_range.1 hj), BitVec.extractLsb', Nat.shiftRight_eq_div_pow, Nat.pow_mul]

/-! ### The tag a fetch reads -/

/-- Sixteen bytes at the memory port are the tag of the quadword they make: no tag is illegal (30_encoding.md R100). -/
theorem decode_tagBytes (q : Quad) : decode ⟨.tag, leBytes 16 q.toNat⟩ = .ok (decodeTag q) := by
  simp [decode, Config.tagBytes, Laws.leBytes_length, ofNat_ofLeBytes_quad]

/-- The sixteen bytes from an address on decode to the tag that the quadword there is (R83, R84). -/
theorem decode_readBytes (s : State) (a : Word) :
    decode ⟨.tag, (List.range 16).map fun j => readByte s (a + BitVec.ofNat 32 j)⟩ = .ok (decodeTag (readQuad s a)) := by
  rw [map_readByte_eq_leBytes, decode_tagBytes]

/-- The low four bits of a tag's address field are its bits 35 to 32 (30_encoding.md R97). -/
theorem aligned_tagAddr_iff (q : Quad) : aligned (tagFieldsOf q).addr = true ↔ q.extractLsb' 32 4 = 0#4 := by
  have low : (q.extractLsb' 32 32).extractLsb' 0 4 = q.extractLsb' 32 4 := by
    refine BitVec.eq_of_getLsbD_eq fun i hi => ?_
    have within : i < 32 := by omega
    simp [hi, within]
  simp [aligned, tagFieldsOf, low]

/-- A fetch at a mapped address that is not stalled answers the quadword there (45_interfaces.md R184 (a)). -/
theorem fetchTag_answered {a : Word} {s : State} (hm : isMapped s.platform a = true) (hs : (drawFetchStall s).1 = false) :
    fetchTag a s = (.tag (readQuad (drawFetchStall s).2 a),
      freshDraws (emit (.fetchTag a (.tag (readQuad (drawFetchStall s).2 a))) (drawFetchStall s).2)) := by
  simp [fetchTag, hm, hs]

/-- TAGFETCH with an answered fetch is exec of the tag that was read (41_chain_walker.md R133). -/
theorem exec_tagFetch_of_tag {s u : State} {q : Quad} (ha : aligned s.r.tadr = true) (hf : fetchTag s.r.tadr s = (.tag q, u)) :
    exec .tagFetch s = exec (decodeTag q) u := by
  calc exec .tagFetch s = onFetched (fetchTag s.r.tadr s) := by simp [exec, execTagFetch, tagFetch, ha]
    _ = execTag (tagKindOf q) (tagFieldsOf q) u := by rw [hf]; rfl
    _ = exec (decodeTag q) u := by rw [execTag_eq, decodeTag, exec_tagInstr]

/-- A tag with an aligned address field completes (20_memory.md R87). -/
theorem exec_decodeTag_of_aligned {q : Quad} (s : State) (h : q.extractLsb' 32 4 = 0#4) :
    ∃ u, exec (decodeTag q) s = .next u :=
  ⟨_, (exec_tagInstr _ _ s).trans (processTag_aligned s ((aligned_tagAddr_iff q).2 h))⟩

/-! ### Memory is as it was (20_memory.md R81) -/

/-- An operation that always completes leaves memory as its next state has it. -/
theorem mem_of_next {s t u : State} (h : (.next u : Res State) = .next t) (hu : u.mem = s.mem) : t.mem = s.mem := by
  cases h
  exact hu

theorem processTag_mem {k : TagKind} {f : TagFields} {s t : State} (h : processTag k f s = .next t) : t.mem = s.mem := by
  obtain ⟨_, rfl⟩ := processTag_eq_next h
  exact consumeTag_mem k f s

theorem tagFetch_mem {s t : State} (h : tagFetch s = .next t) : t.mem = s.mem := by
  obtain ⟨_, ⟨_, rfl⟩ | ⟨q, _, _, rfl⟩⟩ := tagFetch_eq_next h
  · exact fetchTag_mem _ s
  · exact (consumeTag_mem _ _ _).trans (fetchTag_mem _ s)

theorem elem_mem {s : State} {x : Bool × State} (h : elem s = .next x) : x.2.mem = s.mem := by
  obtain ⟨_, rfl⟩ | ⟨_, _, _, rfl⟩ | ⟨_, _, _, rfl⟩ := elem_eq_next h
  · rfl
  · rfl
  · exact feedElement_mem _

theorem execElem_mem {s t : State} (h : execElem s = .next t) : t.mem = s.mem := by
  obtain ⟨x, hx, ht⟩ := andThen_eq_next.1 h
  exact mem_of_next ht (elem_mem hx)

theorem execFetchTag_mem {a : Word} {s t : State} (h : execFetchTag a s = .next t) : t.mem = s.mem := by
  unfold execFetchTag at h
  split at h
  · cases h
  · exact mem_of_next h (fetchTag_mem a s)

theorem kickoff_mem {s t : State} (h : kickoff s = .next t) : t.mem = s.mem := by
  obtain ⟨_, rfl⟩ := kickoff_eq_next h
  exact openRun_mem s

theorem hostWriteChcr_mem {v : Word} {s t : State} (h : hostWriteChcr v s = .next t) : t.mem = s.mem := by
  obtain ⟨_, rfl⟩ | ⟨_, _, _, rfl⟩ := hostWriteChcr_eq_next h
  · rfl
  · exact openRun_mem _

theorem acknowledge_mem (n : Nat) (s : State) : (acknowledge n s).mem = s.mem :=
  redrive_mem n _

/-- Steps 8 to 11 of the driver read memory, for an element or a tag, and write none (44_completion_driver.md R175 to R178). -/
theorem progress_mem {s t : State} (h : progress s = .next t) : t.mem = s.mem := by
  obtain ⟨_, x, hx, rfl⟩ | ⟨_, _, _, rfl⟩ | ⟨_, _, _, _, x, hx, rfl⟩ | ⟨_, _, _, rfl⟩ | ⟨_, _, _, rfl⟩ := progress_eq_next h
  · exact (reschedule_mem x.2).trans (elem_mem hx)
  · rfl
  · exact (reschedule_mem x).trans (tagFetch_mem hx)
  · rfl
  · exact finalize_mem s

theorem driverStep_mem {s t : State} (h : driverStep s = .next t) : t.mem = s.mem := by
  have noted : (notePeerPath (openStep s)).mem = s.mem := by simp
  obtain ⟨_, ⟨_, rfl⟩ | ⟨_, hc⟩⟩ := driverStep_eq_next h
  · exact openStep_mem s
  · obtain ⟨_, _, rfl⟩ | ⟨_, _, hp⟩ | ⟨_, hp⟩ := coalesce_eq_next hc
    · exact noted
    · exact (progress_mem hp).trans noted
    · exact (progress_mem hp).trans noted

/-- After the catch-up loop the synchronizer makes at most one driver step (43_vu_synchronizer.md R165). -/
theorem afterCatchUp_mem {s t : State} (h : afterCatchUp s = .next t) : t.mem = s.mem := by
  obtain ⟨_, rfl⟩ | ⟨_, _, hr⟩ := afterCatchUp_eq_next h
  · rfl
  · unfold releaseWait at hr
    dsimp only at hr
    split at hr
    · split at hr
      · exact (driverStep_mem hr).trans rfl
      · exact mem_of_next hr rfl
    · exact mem_of_next hr rfl

theorem syncStep_mem {s t : State} (h : syncStep s = .next t) : t.mem = s.mem := by
  have blocks (n : Nat) : (afterBlocks n s).mem = s.mem := by
    obtain ⟨_, _, _, _, hm, _⟩ := afterBlocks_frame n s
    exact hm
  obtain ⟨n, _, _, he⟩ | ⟨_, he⟩ := syncStep_eq s
  · exact (afterCatchUp_mem (he ▸ h)).trans (blocks n)
  · exact mem_of_next (he ▸ h) ((hang_mem _).trans (blocks _))

theorem execEvent_mem {ev : EventId} {s t : State} (h : execEvent ev s = .next t) : t.mem = s.mem := by
  cases ev
  · exact (driverStep_mem h).trans (deliver_mem .driver s)
  · exact (syncStep_mem h).trans (deliver_mem .sync s)

theorem execRun_mem {s t : State} (h : execRun s = .next t) : t.mem = s.mem := by
  unfold execRun at h
  split at h
  · exact mem_of_next h rfl
  next ev _ => exact (execEvent_mem h).trans (comeDue_mem ev _)

/-- Of all operations only the host's store writes memory, reset not excepted (20_memory.md R80, R81; 40_host_kickoff.md R126). -/
theorem exec_mem {i : Instr} {s t : State} (hi : ∀ a bytes, i ≠ .memWrite a bytes) (h : exec i s = .next t) :
    t.mem = s.mem := by
  cases i with
  | refe f | cnt f | next f | ref f | refs f | call f | ret f | endTag f => exact processTag_mem h
  | rdChcr | rdMadr | rdQwc | rdTadr | rdAsr0 | rdAsr1 => exact mem_of_next h (hostRead_mem _ s)
  | wrMadr v | wrQwc v | wrTadr v | wrAsr0 v | wrAsr1 v => exact mem_of_next h (hostWrite_mem _ v s)
  | wrChcr v => exact hostWriteChcr_mem h
  | startNormal madr n => exact (hostWriteChcr_mem h).trans rfl
  | startChain tadr tte tie => exact (hostWriteChcr_mem h).trans rfl
  | driverStep => exact execEvent_mem (ev := .driver) h
  | syncStep => exact execEvent_mem (ev := .sync) h
  | kickoff => exact kickoff_mem h
  | elem => exact execElem_mem h
  | tagFetch => exact tagFetch_mem h
  | finalize => exact mem_of_next h (finalize_mem s)
  | runClear => exact mem_of_next h (clearRun_mem s)
  | redrive n => exact mem_of_next h (redrive_mem n s)
  | forceStop => exact mem_of_next h (forceStop_mem s)
  | statusWrite w => exact mem_of_next h (applyStatusWrite_mem w s)
  | memWrite a bytes => exact absurd rfl (hi a bytes)
  | reset => exact mem_of_next h (resetBlock_mem s)
  | translate a => exact mem_of_next h (translate_mem a s)
  | fetchTag a => exact execFetchTag_mem h
  | unpack ws n b => exact mem_of_next h (unpack_mem ws n b s)
  | chainAdvance k => exact mem_of_next h (chainAdvance_mem k s)
  | scheduleEvent ev n => exact mem_of_next h (scheduleEvent_mem ev n s)
  | setStallFlag b => exact mem_of_next h (setStallFlag_mem b s)
  | raiseLine c => exact mem_of_next h (raiseLine_mem c s)
  | log m => exact mem_of_next h (logMessage_mem m s)
  | executeBlock => exact mem_of_next h (executeBlock_mem s)
  | finishPass => exact mem_of_next h (finishPass_mem s)
  | executeQueuedProgram => exact mem_of_next h (executeQueuedProgram_mem s)
  | ack n => exact mem_of_next h (acknowledge_mem n s)
  | forceStopPseudo => exact mem_of_next h (applyStatusWrite_mem _ s)
  | run => exact execRun_mem h

end Sys2Proof.Machine

/-! ### The statements on memory -/

namespace Sys2Proof.Proofs

open Sys2Proof.Machine

/-- Settles O22: the tag is the quadword at `R.tadr`, and the counter has gone on past the stall's draw and the fetch's own. -/
theorem tagFetchRunsDecodedTag : Obligations.TagFetchRunsDecodedTag := by
  intro s ha hm hs
  have answered := fetchTag_answered hm hs
  have onBoundary : aligned s.r.tadr = true := by simpa [aligned] using ha
  exact ⟨readQuad (drawFetchStall s).2 s.r.tadr, _, drawsAfter s.env.fetchStalls s.env.draws + 1, decode_readBytes _ _, rfl,
    exec_tagFetch_of_tag onBoundary answered, exec_decodeTag_of_aligned _⟩

/-- Settles O57: what an address reads as depends on memory alone, and memory is as it was. -/
theorem onlyHostStoresWriteMemory : Obligations.OnlyHostStoresWriteMemory :=
  fun _ _ _ hi h a => byteAt_congr (exec_mem hi h) a

/-- Settles O24: each of the places the model refuses, by its own lemma. -/
theorem misalignedAccessIsRefused : Obligations.MisalignedAccessIsRefused := by
  intro s a k f
  refine ⟨fun h => ?_, fun h => ?_, fun h hq => ?_, fun h => ?_, fun h => ?_⟩
  · exact ⟨kickoff_misaligned (onQuadwords_eq_false h), execDriverStep_misaligned (onQuadwords_eq_false h)⟩
  · exact (exec_tagInstr k f s).trans (processTag_misaligned s ((aligned_eq_false_iff _).2 h))
  · exact execElem_misaligned hq ((aligned_eq_false_iff _).2 h)
  · exact tagFetch_misaligned ((aligned_eq_false_iff _).2 h)
  · exact execFetchTag_misaligned s ((aligned_eq_false_iff _).2 h)

end Sys2Proof.Proofs
end

section
/-! PROOFS. The encodings and what the host starts with them (30_encoding.md): decoding inverts encoding for tags, register
accesses and events; the control register's fields and its 32 bits; START and RUN (R109). -/

namespace Sys2Proof.Machine

/-! ### Bits -/

/-- A single bit is a field of width one. -/
theorem ofBool_getLsbD {w : Nat} (x : BitVec w) (i : Nat) : BitVec.ofBool (x.getLsbD i) = x.extractLsb' i 1 := by
  refine BitVec.eq_of_getLsbD_eq fun j hj => ?_
  obtain rfl : j = 0 := by omega
  simp

theorem getLsbD_append_low {v w i : Nat} (x : BitVec v) (y : BitVec w) (h : i < w) : (x ++ y).getLsbD i = y.getLsbD i := by
  rw [BitVec.getLsbD_append, if_pos h]

theorem getLsbD_append_high {v w i : Nat} (x : BitVec v) (y : BitVec w) (h : w ≤ i) :
    (x ++ y).getLsbD i = x.getLsbD (i - w) := by
  rw [BitVec.getLsbD_append, if_neg (Nat.not_lt.2 h)]

/-- A byte appended below is the lowest digit to base 256. -/
theorem toNat_append_byte {w : Nat} (x : BitVec w) (b : Byte) : (x ++ b).toNat = b.toNat + 256 * x.toNat := by
  rw [BitVec.toNat_append, ← Nat.shiftLeft_add_eq_or_of_lt b.isLt, Nat.shiftLeft_eq]
  omega

/-! ### Bytes and the number they make (20_memory.md R84) -/

theorem ofLeBytes_lt (bytes : List Byte) : ofLeBytes bytes < 256 ^ bytes.length := by
  induction bytes with
  | nil => simp [ofLeBytes]
  | cons b bytes ih =>
    have hb := b.isLt
    rw [ofLeBytes, List.length_cons, Nat.pow_succ]
    omega

/-- Writing the number that bytes make gives the bytes again: the other round trip is `ofLeBytes_leBytes`. -/
theorem leBytes_ofLeBytes (bytes : List Byte) : leBytes bytes.length (ofLeBytes bytes) = bytes := by
  induction bytes with
  | nil => rfl
  | cons b bytes ih =>
    have hb := b.isLt
    have low : BitVec.ofNat 8 (b.toNat + 256 * ofLeBytes bytes) = b :=
      BitVec.eq_of_toNat_eq (by rw [BitVec.toNat_ofNat]; omega)
    have high : (b.toNat + 256 * ofLeBytes bytes) / 256 = ofLeBytes bytes := by omega
    rw [ofLeBytes, List.length_cons, leBytes, low, high, ih]

/-- Any sixteen bytes are those of a quadword. -/
theorem exists_quad_of_length {bytes : List Byte} (h : bytes.length = 16) : ∃ q : Quad, leBytes 16 q.toNat = bytes := by
  have fits : ofLeBytes bytes < 2 ^ 128 := by simpa [h] using ofLeBytes_lt bytes
  refine ⟨BitVec.ofNat 128 (ofLeBytes bytes), ?_⟩
  rw [BitVec.toNat_ofNat, Nat.mod_eq_of_lt fits, ← h, leBytes_ofLeBytes]

/-- A word is the four bytes it is written as. -/
theorem ofNat_ofLeBytes_word (v : Word) : BitVec.ofNat 32 (ofLeBytes (leBytes 4 v.toNat)) = v := by
  have whole : v.toNat % 256 ^ 4 = v.toNat := Nat.mod_eq_of_lt v.isLt
  rw [ofLeBytes_leBytes, whole, BitVec.ofNat_toNat, BitVec.setWidth_eq]

/-- Four bytes, the lowest first, are the word with the last of them on top. -/
theorem ofNat_ofLeBytes_four (b0 b1 b2 b3 : Byte) :
    BitVec.ofNat 32 (ofLeBytes [b0, b1, b2, b3]) = (b3 ++ b2 ++ b1 ++ b0 : BitVec (8 + 8 + 8 + 8)) := by
  have number : ofLeBytes [b0, b1, b2, b3] = (b3 ++ b2 ++ b1 ++ b0 : BitVec (8 + 8 + 8 + 8)).toNat := by
    simp only [toNat_append_byte, ofLeBytes, Nat.mul_zero, Nat.add_zero]
  rw [number, BitVec.ofNat_toNat, BitVec.setWidth_eq]

/-! ### Tags (30_encoding.md R97, R98) -/

@[simp] theorem kindOfBits_bits (k : TagKind) : kindOfBits k.bits = k := by
  cases k <;> rfl

/-- Each of the eight numbers is that of its kind: no tag is illegal (30_encoding.md R100). -/
@[simp] theorem bits_kindOfBits (b : BitVec 3) : (kindOfBits b).bits = b := by
  revert b
  decide

@[simp] theorem tagKindOf_packTag (k : TagKind) (f : TagFields) : tagKindOf (packTag k f) = k := by
  simp (disch := decide) only [tagKindOf, packTag, BitVec.extractLsb'_append_eq_of_le, BitVec.extractLsb'_append_eq_of_add_le]
  simp

@[simp] theorem tagFieldsOf_packTag (k : TagKind) (f : TagFields) : tagFieldsOf (packTag k f) = f := by
  simp (disch := decide) only [tagFieldsOf, packTag, BitVec.extractLsb'_append_eq_of_le,
    BitVec.extractLsb'_append_eq_of_add_le, getLsbD_append_low, getLsbD_append_high]
  simp

/-- The kind and the other fields are the whole of a tag: no bit is dropped (30_encoding.md R97). -/
@[simp] theorem packTag_tagFieldsOf (q : Quad) : packTag (tagKindOf q) (tagFieldsOf q) = q := by
  simp (disch := decide) only [packTag, tagKindOf, tagFieldsOf, bits_kindOfBits, ofBool_getLsbD,
    BitVec.extractLsb'_append_extractLsb'_eq_extractLsb']
  exact BitVec.extractLsb'_eq_self

theorem encode_tagInstr (k : TagKind) (f : TagFields) : encode (k.instr f) = some (tagFrame k f) := by
  cases k <;> rfl

theorem decode_tagFrame (k : TagKind) (f : TagFields) : decode (tagFrame k f) = .ok (k.instr f) :=
  (decode_tagBytes (packTag k f)).trans (by rw [decodeTag, tagKindOf_packTag, tagFieldsOf_packTag])

/-! ### Register accesses and events (30_encoding.md R101, R105, R106) -/

/-- An offset selects a register exactly where it is that register's. -/
theorem regOfOffset_eq_some_iff {o : Byte} {r : Reg} : regOfOffset o = some r ↔ o = r.offset := by
  constructor
  · intro h
    unfold regOfOffset at h
    split at h <;> cases h <;> exact BitVec.eq_of_toNat_eq ‹_›
  · rintro rfl
    cases r <;> rfl

/-- An offset that is no register's selects none. -/
theorem regOfOffset_eq_none {o : Byte} (h : ∀ r : Reg, o ≠ r.offset) : regOfOffset o = none :=
  Option.eq_none_iff_forall_ne_some.2 fun r hr => h r (regOfOffset_eq_some_iff.1 hr)

theorem decode_read_of_reg {o : Byte} {r : Reg} (h : regOfOffset o = some r) : decode ⟨.regRead, [o]⟩ = .ok r.readInstr := by
  simp [decode, h]

theorem decode_write_of_reg {o : Byte} {r : Reg} (h : regOfOffset o = some r) (b0 b1 b2 b3 : Byte) :
    decode ⟨.regWrite, [o, b0, b1, b2, b3]⟩ = .ok (r.writeInstr (BitVec.ofNat 32 (ofLeBytes [b0, b1, b2, b3]))) := by
  simp [decode, h]

theorem decode_read_of_none {o : Byte} (h : regOfOffset o = none) : decode ⟨.regRead, [o]⟩ = .error (.noSuchRegister o) := by
  simp [decode, h]

theorem decode_write_of_none {o : Byte} (h : regOfOffset o = none) (b0 b1 b2 b3 : Byte) :
    decode ⟨.regWrite, [o, b0, b1, b2, b3]⟩ = .error (.noSuchRegister o) := by
  simp [decode, h]

theorem decode_readFrame (r : Reg) : decode (readFrame r) = .ok r.readInstr :=
  decode_read_of_reg (regOfOffset_eq_some_iff.2 rfl)

theorem decode_writeFrame (r : Reg) (v : Word) : decode (writeFrame r v) = .ok (r.writeInstr v) :=
  (decode_write_of_reg (regOfOffset_eq_some_iff.2 rfl) _ _ _ _).trans
    (congrArg (fun x => Except.ok (r.writeInstr x)) (ofNat_ofLeBytes_word v))

theorem decode_eventFrame (e : EventId) : decode (eventFrame e) = .ok e.instr := by
  cases e <;> rfl

/-! ### The control register's fields and its 32 bits (30_encoding.md R102) -/

/-- The fields read back from the 32 bits they are packed in. -/
@[simp] theorem unpackChcr_packChcr (c : Chcr) : unpackChcr (packChcr c) = c := by
  simp (disch := decide) only [unpackChcr, packChcr, BitVec.extractLsb'_append_eq_of_le,
    BitVec.extractLsb'_append_eq_of_add_le, getLsbD_append_low, getLsbD_append_high]
  simp

/-- The fields are the whole of the register: every bit written reads back. -/
@[simp] theorem packChcr_unpackChcr (v : Word) : packChcr (unpackChcr v) = v := by
  simp (disch := decide) only [packChcr, unpackChcr, ofBool_getLsbD, BitVec.extractLsb'_append_extractLsb'_eq_extractLsb']
  exact BitVec.extractLsb'_eq_self

/-! ### A run opened by a write of the control register (40_host_kickoff.md R112 to R120) -/

/-- In the statements' words: the low four bits of both addresses are zero (20_memory.md R86, R87). -/
theorem onQuadwords_iff (r : Regs) :
    r.onQuadwords = true ↔ r.madr.extractLsb' 0 4 = 0#4 ∧ r.tadr.extractLsb' 0 4 = 0#4 := by
  simp [Regs.onQuadwords, aligned]

/-- A run bit that goes from clear to set opens the run of a channel whose addresses are on quadword boundaries. -/
theorem hostWriteChcr_opens {v : Word} {s : State} (hr : s.r.chcr.run = false) (hv : v.getLsbD 8 = true)
    (ha : s.r.onQuadwords = true) : hostWriteChcr v s = .next (openRun (hostWrite .chcr v s)) := by
  have kicksOff : hostWriteChcr v s = kickoff (hostWrite .chcr v s) := by simp [hostWriteChcr, hr, hv]
  exact kicksOff.trans (if_pos ha)

/-- A write of the control register completes where no transition of the run bit is possible, or the addresses are on quadword
boundaries (R87). -/
theorem hostWriteChcr_completes (v : Word) {s : State} (h : s.r.chcr.run = true ∨ s.r.onQuadwords = true) :
    ∃ u, hostWriteChcr v s = .next u := by
  by_cases hk : s.r.chcr.run = false ∧ v.getLsbD 8 = true
  · obtain ⟨hr, hv⟩ := hk
    exact ⟨_, hostWriteChcr_opens hr hv (h.resolve_left (by simp [hr]))⟩
  · exact ⟨_, if_neg (by simpa using hk)⟩

/-- Opening a run sets the runtime state by the count and the addressing mode (R114 to R118). -/
@[simp] theorem openRun_v (s : State) : (openRun s).v = kickoffRuntime s.r s.v := by
  unfold openRun; split <;> rfl

/-- Opening a run sets the queue depth to the count, at most the capacity (R119). -/
@[simp] theorem openRun_t (s : State) : (openRun s).t = { s.t with queueDepth := depthOf s.r.qwc } := by
  unfold openRun; split <;> rfl

/-- With no stall sub-state active the first driver step is scheduled (R120). -/
theorem openRun_h {s : State} (h : anyStallSub s.t = false) : (openRun s).h =
    { s.h with cycles := 0, stallInd := false, pendDriver := some ⟨4, s.h.now⟩ } := by
  simp [openRun, h, kickoffPrepare]

/-- Opening a run touches nothing outside the block. -/
theorem openRun_sameWorld (s : State) : SameWorld s (openRun s) := by
  simp [SameWorld]

theorem kickoffRuntime_of_zero {r : Regs} (v : Runtime) (h : r.qwc = 0) :
    kickoffRuntime r v = { v with mode := .chain, done := false, inProgress := false } := if_pos h

theorem kickoffRuntime_of_normal {r : Regs} (v : Runtime) (hq : r.qwc ≠ 0) (hm : r.chcr.selectsChain = false) :
    kickoffRuntime r v = { v with mode := .normalFromMemory, done := true, inProgress := true } := by
  rw [kickoffRuntime, if_neg hq, if_neg (by simp [hm])]

/-- No stall sub-state is active where none of the three flags is set (10_state.md R59). -/
theorem anyStallSub_eq_false {t : Status} (h₁ : t.stopped = false) (h₂ : t.irqStalled = false) (h₃ : t.otherStall = false) :
    anyStallSub t = false := by
  simp [anyStallSub, h₁, h₂, h₃]

/-- START_CHAIN's value, in the statement's words: 0x105, with 0x40 for `tte` and 0x80 for `tie` (30_encoding.md R109). -/
theorem startChainValue_eq (tte tie : Bool) : startChainValue tte tie =
    0x00000105#32 ||| (if tte then 0x40#32 else 0#32) ||| (if tie then 0x80#32 else 0#32) := by
  cases tte <;> cases tie <;> rfl

theorem startChainValue_run (tte tie : Bool) : (startChainValue tte tie).getLsbD 8 = true := by
  cases tte <;> cases tie <;> rfl

/-! ### The next delivery (45_interfaces.md R189, 60_exceptions.md R208) -/

theorem pickEvent_none {s : State} (hd : s.h.pendDriver = none) (hs : s.h.pendSync = none) : pickEvent s = none := by
  simp [pickEvent, hd, hs]

/-- The driver's event goes first where it is alone or due before the synchronizer's. -/
theorem pickEvent_driver {s : State} {p : Pending} (hp : s.h.pendDriver = some p)
    (h : ∀ q, s.h.pendSync = some q → dueAt p < dueAt q) : pickEvent s = some .driver := by
  cases hs : s.h.pendSync with
  | none => simp [pickEvent, hp, hs]
  | some q => exact (pickEvent_both hp hs).1 (h q hs)

/-- The synchronizer's event goes first where it is alone or due before the driver's. -/
theorem pickEvent_sync {s : State} {q : Pending} (hq : s.h.pendSync = some q)
    (h : ∀ p, s.h.pendDriver = some p → dueAt q < dueAt p) : pickEvent s = some .sync := by
  cases hd : s.h.pendDriver with
  | none => simp [pickEvent, hq, hd]
  | some p => exact (pickEvent_both hd hq).2.1 (h p hd)

/-- A pending event comes due: the clock reaches its cycle, and an open number of cycles more (log 14). -/
theorem comeDue_of_pending {ev : EventId} {s : State} {p : Pending} (h : pendingOf ev s.h = some p) :
    comeDue ev s = { s with
      h := { s.h with now := max s.h.now (p.since + p.delay) + Config.freeLateness s.env.draws }
      env := { s.env with draws := s.env.draws + 1 } } := by
  simp [comeDue, h, freshDraws]

/-- RUN is the handler of the event picked, come due, with RUN first among the inputs again (30_encoding.md R109, log 18). -/
theorem exec_run_of_pick {ev : EventId} {s : State} {p : Pending} (hp : pendingOf ev s.h = some p)
    (hpick : pickEvent s = some ev) :
    exec .run s = exec ev.instr { s with
      h := { s.h with now := max s.h.now (p.since + p.delay) + Config.freeLateness s.env.draws }
      env := { s.env with draws := s.env.draws + 1 }
      inputs := .move .run :: s.inputs } := by
  have again : pickEvent { s with inputs := .move .run :: s.inputs } = some ev := hpick
  have handler : ∀ t, execEvent ev t = exec ev.instr t := by cases ev <;> intro t <;> rfl
  calc exec .run s = execEvent ev (comeDue ev { s with inputs := .move .run :: s.inputs }) := by
        simp only [exec, execRun, hpick]
    _ = _ := by rw [handler, comeDue_of_pending (s := { s with inputs := .move .run :: s.inputs }) hp]

end Sys2Proof.Machine

/-! ### The statements on encodings, and on what the host starts -/

namespace Sys2Proof.Proofs

open Sys2Proof.Machine

/-- Settles O1: the four frames decode to what they are the frame of, and no other operation has one. -/
theorem decodeInvertsEncode : Obligations.DecodeInvertsEncode := by
  intro i f _ h
  cases i with
  | refe t | cnt t | next t | ref t | refs t | call t | ret t | endTag t => cases h; exact decode_tagFrame _ t
  | rdChcr | rdMadr | rdQwc | rdTadr | rdAsr0 | rdAsr1 => cases h; exact decode_readFrame _
  | wrChcr v | wrMadr v | wrQwc v | wrTadr v | wrAsr0 v | wrAsr1 v => cases h; exact decode_writeFrame _ v
  | driverStep | syncStep => cases h; exact decode_eventFrame _
  | _ => cases h

/-- Settles O2: sixteen bytes are a quadword, and a quadword is its kind and its fields. -/
theorem everyTagFrameDecodesAndReencodes : Obligations.EveryTagFrameDecodesAndReencodes := by
  intro bytes h
  obtain ⟨q, rfl⟩ := exists_quad_of_length h
  refine ⟨tagKindOf q, tagFieldsOf q, decode_tagBytes q, ?_⟩
  rw [encode_tagInstr, tagFrame, packTag_tagFieldsOf]

/-- Settles O8: the value read is the packed register, and unpacking it gives each field back. -/
theorem controlRegisterReadsItsFields : Obligations.ControlRegisterReadsItsFields := by
  intro s
  have fields := unpackChcr_packChcr s.r.chcr
  exact ⟨packChcr s.r.chcr, rfl, congrArg Chcr.dir fields, congrArg Chcr.held1 fields, congrArg Chcr.mod fields,
    congrArg Chcr.asp fields, congrArg Chcr.tte fields, congrArg Chcr.tie fields, congrArg Chcr.run fields,
    congrArg Chcr.held9 fields, congrArg Chcr.lastTag fields⟩

/-- Settles O53: the expansions by definition, their completion by `hostWriteChcr_completes`, and what a run opened on an idle
channel holds by the laws of `openRun`. -/
theorem startOperationsOpenRuns : Obligations.StartOperationsOpenRuns := by
  intro s a n tte tie
  rw [← startChainValue_eq]
  refine ⟨⟨_, _, rfl, rfl, rfl, fun h => ?_⟩, ⟨_, _, rfl, rfl, rfl, fun h => ?_⟩, ?_, ?_⟩
  · exact hostWriteChcr_completes _ (h.imp_right (onQuadwords_iff _).2)
  · exact hostWriteChcr_completes _ (h.imp_right (onQuadwords_iff _).2)
  · intro hr h₁ h₂ h₃ hn ha ht
    have opened := hostWriteChcr_opens (v := 0x101) (s := hostWrite .qwc n (hostWrite .madr a s)) hr rfl
      ((onQuadwords_iff _).2 ⟨ha, ht⟩)
    refine ⟨_, opened, by rw [openRun_r]; rfl, ?_, ?_, openRun_t _, openRun_h (anyStallSub_eq_false h₁ h₂ h₃),
      openRun_p _, openRun_env _, openRun_sameWorld _⟩
    · rw [openRun_r]; exact packChcr_unpackChcr _
    · rw [openRun_v]; exact kickoffRuntime_of_normal _ hn rfl
  · intro hr h₁ h₂ h₃ hm ha
    have opened := hostWriteChcr_opens (s := hostWrite .qwc 0 (hostWrite .tadr a s)) hr (startChainValue_run tte tie)
      ((onQuadwords_iff _).2 ⟨hm, ha⟩)
    refine ⟨_, opened, by rw [openRun_r]; rfl, ?_, ?_, openRun_t _, openRun_h (anyStallSub_eq_false h₁ h₂ h₃),
      openRun_p _, openRun_env _, openRun_sameWorld _⟩
    · rw [openRun_r]; exact packChcr_unpackChcr _
    · rw [openRun_v]; exact kickoffRuntime_of_zero _ rfl

/-- Settles O3: the bytes are the frames of the operations, which decode by the round trips. -/
theorem sampleWordsDecode : Obligations.SampleWordsDecode :=
  ⟨decode_tagFrame .cnt { qwc := 1, irq := true },
    decode_tagFrame .call { qwc := 1, addr := 0x2000, data := 0xA1A1A1A1A0A0A0A0 },
    decode_tagFrame .endTag { qwc := 0xFFFF, irq := true, addr := 0xFFFFFFF0 },
    decode_writeFrame .chcr 0x105, decode_eventFrame .sync⟩

/-- Settles O4: an offset of the list is its register's, and one outside it no register's. -/
theorem offsetSelectsRegisterOrIsRejected : Obligations.OffsetSelectsRegisterOrIsRejected := by
  refine ⟨fun r o h => ?_, fun o h => ?_⟩
  · have selected : regOfOffset o = some r := regOfOffset_eq_some_iff.2 (by cases r <;> simpa [Reg.offset] using h)
    refine ⟨decode_read_of_reg selected, fun b0 b1 b2 b3 => ?_⟩
    rw [decode_write_of_reg selected, ofNat_ofLeBytes_four]
  · have unselected : regOfOffset o = none := regOfOffset_eq_none fun r hr => h (by subst hr; cases r <;> decide)
    exact ⟨decode_read_of_none unselected, decode_write_of_none unselected⟩

/-- Settles O54: which event is picked, case by case; RUN is its handler. -/
theorem runDeliversUntilNonePending : Obligations.RunDeliversUntilNonePending := by
  intro s
  refine ⟨fun hd hs => ?_, fun p hp h => ?_, fun q hq h => ?_, fun p q hp hq _ => ?_⟩
  · simp only [exec, execRun, pickEvent_none hd hs]
  · exact ⟨_, exec_run_of_pick (ev := .driver) hp (pickEvent_driver hp h)⟩
  · exact ⟨_, exec_run_of_pick (ev := .sync) hq (pickEvent_sync hq h)⟩
  · obtain ⟨_, _, either⟩ := pickEvent_both hp hq
    exact ⟨_, either.imp (exec_run_of_pick (ev := .driver) hp) (exec_run_of_pick (ev := .sync) hq)⟩

end Sys2Proof.Proofs
end

section
/-! PROOFS. The host's side of the block (40_host_kickoff.md): register accesses, the write of the control register with and
without a transition of the run bit, Kickoff, the host's other moves, its stores to memory. -/

namespace Sys2Proof.Machine

/-! ### The write of the control register (R112, R113) -/

theorem hostWriteChcr_of_no_rise {v : Word} {s : State} (h : s.r.chcr.run = true ∨ v.getLsbD 8 = false) :
    hostWriteChcr v s = .next (hostWrite .chcr v s) :=
  if_neg (by rcases h with h | h <;> simp_all)

theorem hostWriteChcr_of_rise {v : Word} {s : State} (hr : s.r.chcr.run = false) (hv : v.getLsbD 8 = true) :
    hostWriteChcr v s = kickoff (hostWrite .chcr v s) :=
  if_pos (by simp [hr, hv])

/-- Kickoff changes no register, so the fields are those written whether or not the write kicks off (R112, R121). -/
theorem hostWriteChcr_chcr {v : Word} {s t : State} (h : hostWriteChcr v s = .next t) : t.r.chcr = unpackChcr v := by
  obtain ⟨_, rfl⟩ | ⟨_, _, _, rfl⟩ := hostWriteChcr_eq_next h
  · rfl
  · rw [openRun_r]; rfl

/-- Only a transition of the run bit asks for addresses on quadword boundaries (20_memory.md R87). -/
theorem hostWriteChcr_completes_of_no_rise_or_aligned {v : Word} {s : State}
    (h : s.r.chcr.run = true ∨ v.getLsbD 8 = false ∨ s.r.onQuadwords = true) : ∃ t, hostWriteChcr v s = .next t := by
  obtain hr | hv | ha := h
  · exact hostWriteChcr_completes v (.inl hr)
  · exact ⟨_, hostWriteChcr_of_no_rise (.inr hv)⟩
  · exact hostWriteChcr_completes v (.inr ha)

/-- With the run bit among the bits set, the fields written in the statement's words (30_encoding.md R102). -/
theorem unpackChcr_of_run {v : Word} (h : v.getLsbD 8 = true) :
    unpackChcr v = { dir := v.getLsbD 0, held1 := v.getLsbD 1, mod := v.extractLsb' 2 2, asp := v.extractLsb' 4 2,
                     tte := v.getLsbD 6, tie := v.getLsbD 7, run := true, held9 := v.extractLsb' 9 7,
                     lastTag := v.extractLsb' 16 16 } := by
  rw [unpackChcr, h]

/-! ### Kickoff (R114 to R121) -/

theorem kindOfBits_eq_iff {b : BitVec 3} {k : TagKind} : kindOfBits b = k ↔ b = k.bits :=
  ⟨fun h => by rw [← h, bits_kindOfBits], fun h => by rw [h, kindOfBits_bits]⟩

/-- The implied first element ends the chain by its kind, REFE or END, or by its IRQ request with tag-irq-enable (R115). -/
theorem impliedTerminal_eq (c : Chcr) : impliedTerminal c = decide (c.lastTag.extractLsb' 12 3 = 0#3 ∨
    c.lastTag.extractLsb' 12 3 = 7#3 ∨ (c.lastTag.getLsbD 15 = true ∧ c.tie = true)) := by
  rw [Bool.eq_iff_iff]
  simp [impliedTerminal, Chcr.impliedKind, Chcr.impliedIrq, kindOfBits_eq_iff, TagKind.bits, or_assoc]

theorem selectsChain_iff (c : Chcr) : c.selectsChain = true ↔ c.mod = 1#2 := by
  simp [Chcr.selectsChain]

theorem kickoffRuntime_of_chain {r : Regs} (v : Runtime) (hq : r.qwc ≠ 0) (hm : r.chcr.selectsChain = true) :
    kickoffRuntime r v = { v with mode := .chain, done := impliedTerminal r.chcr, inProgress := true } := by
  rw [kickoffRuntime, if_neg hq, if_pos hm]

/-- The three cases of Kickoff in one: no count, a count in chain mode, a count in normal mode (R114 to R118). -/
theorem kickoffRuntime_eq (r : Regs) (v : Runtime) : kickoffRuntime r v = { v with
    mode := if r.qwc = 0#32 ∨ r.chcr.mod = 1#2 then .chain else .normalFromMemory
    done := decide (r.qwc ≠ 0#32 ∧ (r.chcr.mod ≠ 1#2 ∨ r.chcr.lastTag.extractLsb' 12 3 = 0#3 ∨
      r.chcr.lastTag.extractLsb' 12 3 = 7#3 ∨ (r.chcr.lastTag.getLsbD 15 = true ∧ r.chcr.tie = true)))
    inProgress := decide (r.qwc ≠ 0#32) } := by
  by_cases hq : r.qwc = 0#32
  · rw [kickoffRuntime_of_zero v hq]
    simp [hq]
  · by_cases hm : r.chcr.mod = 1#2
    · rw [kickoffRuntime_of_chain v hq ((selectsChain_iff _).2 hm)]
      simp [hq, hm, impliedTerminal_eq]
    · rw [kickoffRuntime_of_normal v hq (Bool.eq_false_iff.2 (hm ∘ (selectsChain_iff _).1))]
      simp [hq, hm]

/-- The whole effect of opening a run, stalled or not: the accounting, the stall indicator, the first driver step (R119, R120). -/
theorem openRun_eq (s : State) : openRun s = { s with
    v := kickoffRuntime s.r s.v
    t := { s.t with queueDepth := depthOf s.r.qwc }
    h := { s.h with
      cycles := 0
      stallInd := false
      pendDriver := if anyStallSub s.t then s.h.pendDriver else some ⟨4, s.h.now⟩ }
    trace := (if anyStallSub s.t then [] else [.scheduleEvent .driver 4]) ++ .setStallFlag false :: s.trace } := by
  unfold openRun
  split <;> rfl

theorem kickoff_of_onQuadwords {s : State} (h : s.r.onQuadwords = true) : kickoff s = .next (openRun s) := if_pos h

/-! ### The host's other moves (R122 to R125) -/

theorem redrive_of_none {s : State} (d : Nat) (h : s.h.pendDriver = none) : redrive d s = scheduleEvent .driver d s :=
  if_pos (by simp [h])

theorem redrive_of_pending {s : State} (d : Nat) (h : s.h.pendDriver ≠ none) : redrive d s = s :=
  if_neg (by simpa using h)

/-- An acknowledgment is a re-drive with the two flags clear, which are no part of the event's slot (30_encoding.md R109). -/
theorem acknowledge_of_none {s : State} (d : Nat) (h : s.h.pendDriver = none) : acknowledge d s =
    scheduleEvent .driver d { s with t := { s.t with irqStalled := false, interruptFlag := false } } :=
  redrive_of_none d h

theorem acknowledge_of_pending {s : State} (d : Nat) (h : s.h.pendDriver ≠ none) : acknowledge d s =
    { s with t := { s.t with irqStalled := false, interruptFlag := false } } :=
  redrive_of_pending d h

/-! ### The host's stores (R126, 20_memory.md R89) -/

/-- One on from an address and `j` further is `j + 1` on from it, the wrap at the top included. -/
theorem succ_add_ofNat (a : Word) (j : Nat) : a + 1 + BitVec.ofNat 32 j = a + BitVec.ofNat 32 (j + 1) := by
  rw [Nat.add_comm j 1, BitVec.ofNat_add]
  exact BitVec.add_assoc ..

/-- Within one turn of the address space the addresses of a store do not come back to where it began. -/
theorem ne_succ_add_ofNat {a : Word} {j : Nat} (h : j + 1 < 2 ^ 32) : a ≠ a + 1 + BitVec.ofNat 32 j := by
  rw [succ_add_ofNat]
  bv_omega

theorem memGet_storeBytes_other {x a : Word} {bytes : List Byte} (m : Memory)
    (h : ∀ j < bytes.length, x ≠ a + BitVec.ofNat 32 j) : memGet (storeBytes m a bytes) x.toNat = memGet m x.toNat := by
  induction bytes generalizing m a with
  | nil => rfl
  | cons b bytes ih =>
    have elsewhere : x.toNat ≠ a.toNat := fun hx => h 0 (by simp) (by simpa using BitVec.eq_of_toNat_eq hx)
    have later : ∀ j < bytes.length, x ≠ a + 1 + BitVec.ofNat 32 j := fun j hj => by
      rw [succ_add_ofNat]
      exact h (j + 1) (by simpa using hj)
    calc memGet (storeBytes m a (b :: bytes)) x.toNat = memGet (memSet m a.toNat b) x.toNat := ih _ later
      _ = memGet m x.toNat := memGet_memSet_other m b elsewhere

/-- No address is written twice by a store of at most the whole address space, so each byte stays. -/
theorem memGet_storeBytes_same {a : Word} {bytes : List Byte} {j : Nat} {b : Byte} (m : Memory)
    (hlen : bytes.length ≤ 2 ^ 32) (hb : bytes[j]? = some b) :
    memGet (storeBytes m a bytes) (a + BitVec.ofNat 32 j).toNat = some b := by
  induction bytes generalizing m a j with
  | nil => simp at hb
  | cons c bytes ih =>
    rw [List.length_cons] at hlen
    cases j with
    | zero =>
      obtain rfl : c = b := by simpa using hb
      rw [BitVec.add_zero, storeBytes,
        memGet_storeBytes_other _ fun i hi => ne_succ_add_ofNat (by omega), memGet_memSet_same]
    | succ j =>
      rw [← succ_add_ofNat]
      exact ih _ (by omega) hb

end Sys2Proof.Machine

/-! ### The statements on the host's accesses and moves -/

namespace Sys2Proof.Proofs

open Sys2Proof.Machine

/-- Settles O11: the write completes, it leaves the fields of the value, and those packed are the value. -/
theorem controlWriteReadsBack : Obligations.ControlWriteReadsBack := by
  intro s v h
  obtain ⟨t, ht⟩ := hostWriteChcr_completes_of_no_rise_or_aligned h
  have value : readReg t.r .chcr = v := by rw [readReg, hostWriteChcr_chcr ht, packChcr_unpackChcr]
  have read : exec .rdChcr t = .next { t with trace := .regRead .chcr (readReg t.r .chcr) :: t.trace } := rfl
  exact ⟨t, ht, by rw [read, value]⟩

/-- Settles O13: the run opened, with its runtime state case by case in `kickoffRuntime_eq`. -/
theorem kickoffOpensRun : Obligations.KickoffOpensRun := by
  intro s ha
  calc exec .kickoff s = .next (openRun s) := kickoff_of_onQuadwords ha
    _ = _ := by rw [openRun_eq, kickoffRuntime_eq]; rfl

/-- Settles O51: what memory lists after the store, at the addresses it covers and at the others. -/
theorem hostStoreReadsBack : Obligations.HostStoreReadsBack := by
  intro a bytes s hw
  have hlen : bytes.length ≤ 2 ^ 32 := of_decide_eq_true hw
  refine ⟨{ s with mem := storeBytes s.mem a bytes }, rfl, rfl, fun j b hb => ?_, fun x hx => ?_⟩
  · rw [byteAt, memGet_storeBytes_same s.mem hlen hb, Option.getD_some]
  · rw [byteAt, memGet_storeBytes_other s.mem hx, byteAt]

/-- Settles O7: `hostRead` at each of the five registers. -/
theorem registerReadsReturnValues : Obligations.RegisterReadsReturnValues :=
  fun _ => ⟨rfl, rfl, rfl, rfl, rfl⟩

/-- Settles O9: `hostWrite` at each of the five registers. -/
theorem registerWritesSetOneRegister : Obligations.RegisterWritesSetOneRegister :=
  fun _ _ => ⟨rfl, rfl, rfl, rfl, rfl⟩

/-- Settles O10: with no rise of the run bit there is the write alone. -/
theorem controlWriteWithoutTransition : Obligations.ControlWriteWithoutTransition :=
  fun _ _ h => hostWriteChcr_of_no_rise h

/-- Settles O12: on a rise of the run bit there is Kickoff after the write, whose addresses are those of before. -/
theorem runBitTransitionKicksOff : Obligations.RunBitTransitionKicksOff := by
  intro s v hr hv
  refine ⟨?_, fun ha => ⟨_, hostWriteChcr_opens hr hv ha⟩⟩
  rw [← unpackChcr_of_run hv]
  exact hostWriteChcr_of_rise hr hv

/-- Settles O49: the re-drive by whether a driver step is pending, the others by their definitions. -/
theorem hostMovesDoOneThing : Obligations.HostMovesDoOneThing :=
  fun _ d => ⟨rfl, fun h => congrArg _ (redrive_of_none d h), fun h => congrArg _ (redrive_of_pending d h), rfl, rfl⟩

/-- Settles O50: the status write by its definition, the acknowledgment by whether a driver step is pending. -/
theorem statusWriteAndAcknowledge : Obligations.StatusWriteAndAcknowledge :=
  fun _ _ d => ⟨rfl, fun h => congrArg _ (acknowledge_of_none d h), fun h => congrArg _ (acknowledge_of_pending d h)⟩

end Sys2Proof.Proofs
end

section
/-! PROOFS. The Chain Walker (41_chain_walker.md): the processing of a fetched tag with tag transfer off and on, a fetch that
stalls, element transfer, and the driver step that makes it. -/

namespace Sys2Proof.Machine

/-- In the statements' words: the low four bits of an aligned address are zero (20_memory.md R86). -/
theorem aligned_of_lowBits {a : Word} (h : a.extractLsb' 0 4 = 0#4) : aligned a = true := by
  simpa [aligned] using h

/-! ### The feed of a tag's data (R138 to R141) -/

theorem tagDataOffset_le (v : Runtime) : tagDataOffset v ≤ 4 := by
  unfold tagDataOffset
  split
  · exact Nat.min_le_right ..
  · decide

/-- The words of the tag delivered once the decoder has answered: those skipped and those it took (R141). -/
def tagDataDelivered (s : State) : Nat :=
  tagDataOffset s.v + takenOf (nextUnpack s) (4 - tagDataOffset s.v)

/-- A consumed feed delivers the whole tag. -/
theorem tagDataDelivered_of_consumed {s : State} (h : (nextUnpack s).consumed = true) : tagDataDelivered s = 4 := by
  have skipped := tagDataOffset_le s.v
  rw [tagDataDelivered, takenOf, if_pos h]
  omega

theorem tagDataDelivered_of_refused {s : State} (h : (nextUnpack s).consumed = false) :
    tagDataDelivered s = tagDataOffset s.v + min (nextUnpack s).taken (4 - tagDataOffset s.v) := by
  rw [tagDataDelivered, takenOf, if_neg (by simp [h])]

/-- A fetched tag with its registers loaded and its data offered: the state the tag is completed or kept in, as
`consumeTag_of_transfer` says. -/
def offerTagData (k : TagKind) (f : TagFields) (s : State) : State :=
  let u := (unpack (tagDataWords f s.v) (4 - tagDataOffset s.v) true (armResume (loadTag k f s))).2
  { u with h := { u.h with cycles := u.h.cycles + xferCost u.platform (tagDataDelivered s) } }

/-- Loading a tag and arming its offset draw no reply. -/
theorem nextUnpack_armResume_loadTag (k : TagKind) (f : TagFields) (s : State) :
    nextUnpack (armResume (loadTag k f s)) = nextUnpack s := by
  simp only [nextUnpack, armResume_env, loadTag_env]

/-- The runtime state a feed of tag data is made in: no element in progress, the offset armed (R136, R140). -/
theorem armResume_loadTag_v (k : TagKind) (f : TagFields) (s : State) : (armResume (loadTag k f s)).v =
    { s.v with inProgress := false, resumeOffset := armedOffset s.v } := by
  rw [armResume_v, armedOffset_loadTag, loadTag_v]

/-- With tag transfer off there is no feed (R137). -/
theorem consumeTag_of_no_transfer {s : State} (k : TagKind) (f : TagFields) (h : s.r.chcr.tte = false) :
    consumeTag k f s = completeTag k f (loadTag k f s) := if_neg (by simp [h])

/-- With tag transfer on the tag is completed where its data is consumed, and kept where it is not (R141, R142). -/
theorem consumeTag_of_transfer {s : State} (k : TagKind) (f : TagFields) (h : s.r.chcr.tte = true) :
    consumeTag k f s = if (nextUnpack s).consumed then completeTag k f (offerTagData k f s)
      else refuseTagData (tagDataDelivered s) (offerTagData k f s) := by
  rw [consumeTag, if_pos h]
  simp only [feedTagData, unpack_fst, tagDataOffset_loadTag, nextUnpack_armResume_loadTag]
  rfl

theorem offerTagData_r (k : TagKind) (f : TagFields) (s : State) : (offerTagData k f s).r = loadedRegs k f s.r := by
  simp [offerTagData, loadTag_r]

/-- The decoder's effects reach the runtime state, whose offset is armed (R140, 45_interfaces.md R186). -/
theorem offerTagData_v (k : TagKind) (f : TagFields) (s : State) : (offerTagData k f s).v =
    { applyRuntimeFx (nextUnpack s).fx s.v with inProgress := false, resumeOffset := armedOffset s.v } := by
  simp [offerTagData, nextUnpack_armResume_loadTag, -armResume_v, armResume_loadTag_v, applyRuntimeFx]

theorem offerTagData_h (k : TagKind) (f : TagFields) (s : State) : (offerTagData k f s).h =
    { s.h with cycles := s.h.cycles + 1 + xferCost s.platform (tagDataDelivered s) } := by
  simp [offerTagData]

theorem offerTagData_t (k : TagKind) (f : TagFields) (s : State) :
    (offerTagData k f s).t = applyStatusFx (nextUnpack s).fx.status s.t := by
  simp [offerTagData, nextUnpack_armResume_loadTag]

theorem offerTagData_p (k : TagKind) (f : TagFields) (s : State) :
    (offerTagData k f s).p = applyCoprocFx (nextUnpack s).fx.coproc s.p := by
  simp [offerTagData, nextUnpack_armResume_loadTag]

theorem offerTagData_env (k : TagKind) (f : TagFields) (s : State) : (offerTagData k f s).env =
    { s.env with unpacks := s.env.unpacks.tail, draws := drawsAfter s.env.unpacks s.env.draws } := by
  simp [offerTagData]

/-- The feed is the first port call of the tag, with the armed offset visible to the decoder (R140). -/
theorem offerTagData_trace (k : TagKind) (f : TagFields) (s : State) : (offerTagData k f s).trace =
    (if (nextUnpack s).consumed then [] else [.anomaly .feedRefused]) ++
      .unpack (tagDataWords f s.v) true (armedOffset s.v) (nextUnpack s).consumed
        (takenOf (nextUnpack s) (4 - tagDataOffset s.v)) :: s.trace := by
  simp [offerTagData, nextUnpack_armResume_loadTag, -armResume_v, armResume_loadTag_v]

/-! ### The processing of a fetched tag (R134 to R145) -/

theorem consumeTag_sameWorld (k : TagKind) (f : TagFields) (s : State) : SameWorld s (consumeTag k f s) := by
  simp [SameWorld]

/-- A tag whose address field is on a quadword boundary completes (30_encoding.md R99). -/
theorem exec_tagInstr_of_aligned (k : TagKind) {f : TagFields} (s : State) (h : f.addr.extractLsb' 0 4 = 0#4) :
    exec (k.instr f) s = .next (consumeTag k f s) :=
  (exec_tagInstr k f s).trans (processTag_aligned s (aligned_of_lowBits h))

/-- The count a tag loads is zero exactly where its own field is (R134, R144). -/
theorem loadedRegs_qwc_ne_zero (k : TagKind) (f : TagFields) (r : Regs) :
    ((loadedRegs k f r).qwc != 0) = decide (f.qwc ≠ 0#16) := by
  have same : f.qwc.zeroExtend 32 = 0#32 ↔ f.qwc = 0#16 := by
    simp [← BitVec.toNat_inj]
    omega
  rw [Bool.eq_iff_iff]
  simp [loadedRegs, same]

/-- Once the registers are loaded and no element is in progress, what a tag leaves in the runtime state is the state's own but for
its three marks (R142 to R145). -/
theorem completeTag_v_of_loaded {k : TagKind} {f : TagFields} {s u : State} {v : Runtime} {o : ResumeOffset}
    (hr : u.r = loadedRegs k f s.r) (hv : u.v = { v with inProgress := false, resumeOffset := o }) :
    (completeTag k f u).v = { v with
      inProgress := decide (f.qwc ≠ 0#16)
      resumeOffset := ⟨false, 0⟩
      done := (advance k (loadedRegs k f s.r)).2 || (f.irq && s.r.chcr.tie) } := by
  rw [completeTag_v, hr, hv, loadedRegs_qwc_ne_zero]
  simp [loadedRegs]

/-- What is recorded after the feed only adds to the trace. -/
theorem consumeTag_trace_of_transfer {s : State} (k : TagKind) (f : TagFields) (h : s.r.chcr.tte = true) :
    ∃ later, (consumeTag k f s).trace = later ++ .unpack (tagDataWords f s.v) true (armedOffset s.v) (nextUnpack s).consumed
      (takenOf (nextUnpack s) (4 - tagDataOffset s.v)) :: s.trace := by
  rw [consumeTag_of_transfer k f h]
  split
  · rw [completeTag_trace, offerTagData_trace, ← List.append_assoc]
    exact ⟨_, rfl⟩
  · rw [refuseTagData_trace, offerTagData_trace]
    exact ⟨_, rfl⟩

/-- A kind that ends the chain leaves `done` set, or its data was refused and `done` is as it was (42_chain_tags.md R147). -/
theorem consumeTag_done_of_end {k : TagKind} (hk : ∀ r, (advance k r).2 = true) (f : TagFields) (s : State) :
    (consumeTag k f s).v.done = true ∨
      (s.r.chcr.tte = true ∧ (nextUnpack s).consumed = false ∧ (consumeTag k f s).v.done = s.v.done) := by
  have ended (u : State) : (completeTag k f u).v.done = true := by simp [completeTag_v, hk]
  cases ht : s.r.chcr.tte with
  | false => exact .inl (consumeTag_of_no_transfer k f ht ▸ ended _)
  | true =>
    rw [consumeTag_of_transfer k f ht]
    cases hc : (nextUnpack s).consumed with
    | true => exact .inl (ended _)
    | false => exact .inr ⟨rfl, rfl, by simp [offerTagData_v, applyRuntimeFx]⟩

/-! ### A fetch that stalls (R133) -/

/-- A fetch stalls before the draw of the collaborator's own stall, or after it (45_interfaces.md R184 (b), (d)). -/
theorem fetchTag_of_stall {a : Word} {s : State} (h : isMapped s.platform a = false ∨ (drawFetchStall s).1 = true) :
    fetchTag a s = fetchStalled a s ∨ fetchTag a s = fetchStalled a (drawFetchStall s).2 := by
  cases hm : isMapped s.platform a with
  | false => exact .inl (by simp [fetchTag, hm])
  | true =>
    have drawn : (drawFetchStall s).1 = true := h.resolve_left (by simp [hm])
    exact .inr (by simp [fetchTag, hm, drawn])

/-- TAGFETCH with a stalled fetch ends there. -/
theorem exec_tagFetch_of_stalled {s u : State} (ha : s.r.tadr.extractLsb' 0 4 = 0#4)
    (hf : fetchTag s.r.tadr s = fetchStalled s.r.tadr u) : exec .tagFetch s = .next (fetchStalled s.r.tadr u).2 := by
  calc exec .tagFetch s = onFetched (fetchTag s.r.tadr s) := if_neg (by simp [aligned_of_lowBits ha])
    _ = .next (fetchStalled s.r.tadr u).2 := by rw [hf]; rfl

/-! ### Element transfer (R127 to R131) -/

theorem elem_of_zero {s : State} (h : s.r.qwc = 0) : elem s = .next (true, { s with v := { s.v with inProgress := false } }) :=
  if_pos h

theorem elem_of_unmapped {s : State} (hq : s.r.qwc ≠ 0) (ha : aligned s.r.madr = true)
    (hm : isMapped s.platform s.r.madr = false) : elem s = .next (true, discardElement (translate s.r.madr s).2) := by
  rw [elem, if_neg hq, if_neg (by simp [ha])]
  simp [hm]

theorem elem_of_mapped {s : State} (hq : s.r.qwc ≠ 0) (ha : aligned s.r.madr = true)
    (hm : isMapped s.platform s.r.madr = true) : elem s = .next (feedElement (translate s.r.madr s).2) := by
  rw [elem, if_neg hq, if_neg (by simp [ha])]
  simp [hm]

theorem exec_elem_of_next {s : State} {x : Bool × State} (h : elem s = .next x) :
    exec .elem s = .next (emit (.elemReport x.1) x.2) := by
  rw [exec, execElem, h, andThen_next]

/-- Whatever is left of the element and wherever it goes, from a quadword boundary it is dealt with (20_memory.md R87). -/
theorem elem_completes {s : State} (ha : aligned s.r.madr = true) : ∃ x, elem s = .next x := by
  by_cases hq : s.r.qwc = 0
  · exact ⟨_, elem_of_zero hq⟩
  · cases hm : isMapped s.platform s.r.madr with
    | false => exact ⟨_, elem_of_unmapped hq ha hm⟩
    | true => exact ⟨_, elem_of_mapped hq ha hm⟩

/-- The words of the element delivered once the decoder has answered: those before the resume offset and those it took (R131). -/
def elemDelivered (s : State) : Nat :=
  elemOffset s.v + takenOf (nextUnpack (freshDraws s)) (elemCount s.r s.v)

/-- The address of a word is counted from `R.madr` in one go: the wrap at the top is one of all 2^32 (20_memory.md R89). -/
theorem addrPlus_addrPlus (a : Word) (m n : Nat) : addrPlus (addrPlus a m) n = a + BitVec.ofNat 32 (m + n) := by
  rw [addrPlus, addrPlus, BitVec.add_assoc, ← BitVec.ofNat_add]

/-- The words fed are those of the element from the resume offset on (R130). -/
theorem readWords_element (s : State) (a : Word) (off n : Nat) : readWords s (addrPlus a (4 * off)) n =
    (List.range n).map fun j => readWord s (a + BitVec.ofNat 32 (4 * (off + j))) := by
  simp only [readWords, addrPlus_addrPlus, Nat.mul_add]

/-- The element is offered, then accounted for. -/
theorem feedElement_snd (s : State) : (feedElement s).2 = account (elemDelivered s)
    (unpack (readWords s (addrPlus s.r.madr (4 * elemOffset s.v)) (elemCount s.r s.v)) (elemCount s.r s.v) false
      (freshDraws s)).2 := rfl

theorem feedElement_r (s : State) : (feedElement s).2.r = { s.r with
    madr := addrPlus s.r.madr (16 * min s.r.qwc.toNat (elemDelivered s / 4))
    qwc := BitVec.ofNat 32 (s.r.qwc.toNat - min s.r.qwc.toNat (elemDelivered s / 4)) } := by
  rw [feedElement_snd, account_r, unpack_r, freshDraws_r]

theorem feedElement_v (s : State) : (feedElement s).2.v = { applyRuntimeFx (nextUnpack (freshDraws s)).fx s.v with
    resumeOffset := if elemDelivered s % 4 = 0 then ⟨false, 0⟩ else ⟨true, elemDelivered s % 4⟩ } := by
  rw [feedElement_snd, account_v, unpack_v, freshDraws_v]

theorem feedElement_h (s : State) : (feedElement s).2.h =
    { s.h with cycles := s.h.cycles + xferCost s.platform (elemDelivered s) } := by
  rw [feedElement_snd, account_h, unpack_h, unpack_platform, freshDraws_h, freshDraws_platform]

theorem feedElement_t (s : State) : (feedElement s).2.t = applyStatusFx (nextUnpack (freshDraws s)).fx.status s.t := by
  rw [feedElement_snd, account_t, unpack_t, freshDraws_t]

theorem feedElement_p (s : State) : (feedElement s).2.p = applyCoprocFx (nextUnpack (freshDraws s)).fx.coproc s.p := by
  rw [feedElement_snd, account_p, unpack_p, freshDraws_p]

theorem feedElement_env (s : State) : (feedElement s).2.env = { s.env with
    unpacks := s.env.unpacks.tail, draws := (feedElement s).2.env.draws } := by
  rw [feedElement_snd, account_env, unpack_env]
  rfl

/-- The words of the element are offered in ascending order from the resume offset on (R130). -/
theorem feedElement_trace (s : State) : (feedElement s).2.trace =
    (if (nextUnpack (freshDraws s)).consumed then [] else [.anomaly .feedRefused]) ++
      .unpack ((List.range (elemCount s.r s.v)).map fun j =>
          readWord s (s.r.madr + BitVec.ofNat 32 (4 * (elemOffset s.v + j)))) false
        s.v.resumeOffset (nextUnpack (freshDraws s)).consumed
        (takenOf (nextUnpack (freshDraws s)) (elemCount s.r s.v)) :: s.trace := by
  rw [feedElement_snd, account_trace, unpack_trace, readWords_element, freshDraws_v, freshDraws_trace]

theorem feedElement_sameWorld (s : State) : SameWorld s (feedElement s).2 := by
  simp [SameWorld]

/-! ### The words of an element (R131) -/

/-- From an offset within the first quadword, no more is delivered than the element holds. -/
theorem elemDelivered_le {s : State} (hq : s.r.qwc ≠ 0) (ho : s.v.resumeOffset.withinQuad) :
    elemDelivered s ≤ 4 * s.r.qwc.toNat := by
  have left : 0 < s.r.qwc.toNat := Nat.pos_of_ne_zero fun h0 => hq (BitVec.eq_of_toNat_eq h0)
  have skipped : elemOffset s.v ≤ 4 := by
    unfold elemOffset
    split
    next he => exact ho he
    · exact Nat.zero_le 4
  have taken := takenOf_le (nextUnpack (freshDraws s)) (elemCount s.r s.v)
  unfold elemDelivered
  unfold elemCount at taken ⊢
  omega

/-- The offset the accounting leaves is what is over of a quadword. -/
theorem elemOffset_account (n : Nat) (s : State) : elemOffset (account n s).v = n % 4 := by
  rw [account_v]
  unfold elemOffset
  split <;> simp_all

/-- The count the accounting leaves is the count less the whole quadwords delivered: no wrap (00_scope.md R19). -/
theorem account_qwc_toNat (n : Nat) (s : State) :
    (account n s).r.qwc.toNat = s.r.qwc.toNat - min s.r.qwc.toNat (n / 4) := by
  have fits := s.r.qwc.isLt
  rw [account_r, BitVec.toNat_ofNat]
  omega

/-- What is left after the accounting is what was there less what was delivered. -/
theorem elemCount_account {n : Nat} {s : State} (h : n ≤ 4 * s.r.qwc.toNat) :
    elemCount (account n s).r (account n s).v = 4 * s.r.qwc.toNat - n := by
  rw [elemCount, elemOffset_account, account_qwc_toNat]
  omega

/-- An offset left pending is within a quadword that is still to be delivered (10_state.md R37). -/
theorem account_pending {n : Nat} {s : State} (h : n ≤ 4 * s.r.qwc.toNat)
    (he : (account n s).v.resumeOffset.enabled = true) :
    (account n s).v.resumeOffset.wordCount ≤ 3 ∧ (account n s).r.qwc ≠ 0 := by
  have rest : n % 4 ≠ 0 := fun h0 => by simp [h0] at he
  have count : (account n s).r.qwc.toNat ≠ 0 := by
    rw [account_qwc_toNat]
    omega
  refine ⟨?_, fun h0 => count (by rw [h0]; rfl)⟩
  rw [account_v, if_neg rest]
  exact Nat.le_of_lt_succ (Nat.mod_lt n (by decide))

/-- No word of an element is lost and none made up: those left before the feed are those taken and those left after. -/
theorem elemCount_feedElement {s : State} (h : elemDelivered s ≤ 4 * s.r.qwc.toNat) :
    elemCount s.r s.v = takenOf (nextUnpack (freshDraws s)) (elemCount s.r s.v) +
      elemCount (feedElement s).2.r (feedElement s).2.v := by
  have taken := takenOf_le (nextUnpack (freshDraws s)) (elemCount s.r s.v)
  rw [feedElement_snd, elemCount_account (by simpa using h), unpack_r, freshDraws_r]
  unfold elemDelivered
  unfold elemCount at taken ⊢
  omega

theorem feedElement_pending {s : State} (h : elemDelivered s ≤ 4 * s.r.qwc.toNat)
    (he : (feedElement s).2.v.resumeOffset.enabled = true) :
    (feedElement s).2.v.resumeOffset.wordCount ≤ 3 ∧ (feedElement s).2.r.qwc ≠ 0 := by
  rw [feedElement_snd] at he ⊢
  exact account_pending (by simpa using h) he

/-! ### Element transfer within a driver step (44_completion_driver.md R175) -/

/-- What element transfer leaves alone, whichever of its three ways it takes: the registers but the address and the count, `done`,
everything outside the block and its replies, and the interrupt line. -/
structure Transfers (s t : State) : Prop where
  regs : t.r = { s.r with madr := t.r.madr, qwc := t.r.qwc }
  done : t.v.done = s.v.done
  world : SameWorld s t
  pulses : ∀ c, pulses c t.trace = pulses c s.trace

theorem transfers_discardElement (s : State) : Transfers s (discardElement (translate s.r.madr s).2) :=
  ⟨rfl, rfl, ⟨rfl, rfl, rfl, rfl, rfl⟩, fun _ => rfl⟩

theorem transfers_feedElement (s : State) : Transfers s (feedElement (translate s.r.madr s).2).2 where
  regs := by rw [feedElement_r]; rfl
  done := by rw [feedElement_v]; rfl
  world := feedElement_sameWorld (translate s.r.madr s).2
  pulses c := by
    rw [feedElement_trace]
    split <;> simp [pulses]

theorem elem_transfers {s : State} {x : Bool × State} (h : elem s = .next x) : Transfers s x.2 := by
  obtain ⟨_, rfl⟩ | ⟨_, _, _, rfl⟩ | ⟨_, _, _, rfl⟩ := elem_eq_next h
  · exact ⟨rfl, rfl, ⟨rfl, rfl, rfl, rfl, rfl⟩, fun _ => rfl⟩
  · exact transfers_discardElement s
  · exact transfers_feedElement s

/-- An element in progress stays so unless there was nothing left of it (41_chain_walker.md R128, R129). -/
theorem elem_inProgress {s : State} {x : Bool × State} (hp : s.v.inProgress = true) (h : elem s = .next x) :
    x.2.v.inProgress = decide (s.r.qwc ≠ 0#32) := by
  obtain ⟨hq, rfl⟩ | ⟨hq, _, _, rfl⟩ | ⟨hq, _, _, rfl⟩ := elem_eq_next h
  · simp [hq]
  · exact hp.trans (decide_eq_true hq).symm
  · rw [feedElement_v]
    exact hp.trans (decide_eq_true hq).symm

theorem progress_of_inProgress {s : State} {x : Bool × State} (hp : s.v.inProgress = true) (h : elem s = .next x) :
    progress s = .next (reschedule x.2) := by
  rw [progress, if_pos hp, h, andThen_next]

/-- The pulses a trace records are those of its parts. -/
theorem pulses_append (c : IrqCause) (a b : List TraceEvent) : pulses c (a ++ b) = pulses c a + pulses c b :=
  List.count_append

/-- A re-schedule pulses no line (45_interfaces.md R191). -/
theorem pulses_reschedule (c : IrqCause) (s : State) : pulses c (reschedule s).trace = pulses c s.trace := by
  simp [pulses]

/-- Steps 1 to 7 pulse the line once where an interrupt is due, and never for a completion (44_completion_driver.md R172). -/
theorem pulses_arbitrated (c : IrqCause) (s : State) : pulses c (arbitrated s).trace =
    pulses c s.trace + (if irqDue s.v ∧ c = .irqStall then 1 else 0) := by
  have logs : pulses c ((if s.t.waitPeerPath then [.anomaly .peerPathWait, .log .waitingOnPeerPath] else []) ++
      (if s.r.chcr.run then [] else [.anomaly .runBitClear, .log .runBitClear]) ++ s.trace) = pulses c s.trace := by
    cases s.t.waitPeerPath <;> cases s.r.chcr.run <;> rfl
  have signal : pulses c (if irqDue s.v then [.raiseLine .irqStall] else []) =
      if irqDue s.v ∧ c = .irqStall then 1 else 0 := by
    cases irqDue s.v <;> cases c <;> rfl
  rw [arbitrated, List.append_assoc, List.append_assoc, pulses_append, ← List.append_assoc, logs, signal, Nat.add_comm]

end Sys2Proof.Machine

/-! ### The statements on the Chain Walker -/

namespace Sys2Proof.Proofs

open Sys2Proof.Machine

/-- Settles O17: the tag is completed from the registers it loads. -/
theorem tagWithoutTransferLoadsAndAdvances : Obligations.TagWithoutTransferLoadsAndAdvances := by
  intro k f s ha ht
  have completes := exec_tagInstr_of_aligned k s ha
  have world := consumeTag_sameWorld k f s
  rw [consumeTag_of_no_transfer k f ht] at completes world
  refine ⟨_, completes, ?_, ?_, ?_, ?_, ?_, ?_, world⟩
  · rw [completeTag_r, loadTag_r]
  · exact completeTag_v_of_loaded (v := s.v) (loadTag_r k f s) rfl
  · rw [completeTag_h, loadTag_h]
  · rw [completeTag_t, loadTag_t]
  · rw [completeTag_p, loadTag_p]
  · rw [completeTag_env, loadTag_env]

/-- Settles O18: the feed is the first that is recorded, and the words it offers by the offset pending. -/
theorem tagDataFeedOffersUpperHalf : Obligations.TagDataFeedOffersUpperHalf := by
  intro k f s ha ht
  obtain ⟨later, htr⟩ := consumeTag_trace_of_transfer k f ht
  refine ⟨consumeTag k f s, later, exec_tagInstr_of_aligned k s ha, htr, fun h => ?_, fun h => ?_, fun h => ?_⟩ <;>
    simp [tagDataWords, tagDataOffset, h]

/-- Settles O19: the tag is completed from the state its feed leaves, with all four words delivered. -/
theorem consumedTagDataCompletesTag : Obligations.ConsumedTagDataCompletesTag := by
  intro k f s ha ht hc
  have completes := exec_tagInstr_of_aligned k s ha
  have world := consumeTag_sameWorld k f s
  rw [consumeTag_of_transfer k f ht, if_pos hc] at completes world
  refine ⟨_, completes, ?_, ?_, ?_, ?_, ?_, world, ?_⟩
  · rw [completeTag_r, offerTagData_r]
  · exact completeTag_v_of_loaded (offerTagData_r k f s) (offerTagData_v k f s)
  · rw [completeTag_h, offerTagData_h, tagDataDelivered_of_consumed hc]
  · rw [completeTag_t, offerTagData_t]
  · rw [completeTag_p, offerTagData_p]
  · rw [completeTag_env, offerTagData_env]

/-- Settles O20: the tag is kept in the state its feed leaves. -/
theorem refusedTagDataKeepsTag : Obligations.RefusedTagDataKeepsTag := by
  intro k f s ha ht hc
  dsimp only
  rw [← tagDataDelivered_of_refused hc]
  have completes := exec_tagInstr_of_aligned k s ha
  have world := consumeTag_sameWorld k f s
  rw [consumeTag_of_transfer k f ht, if_neg (by simp [hc])] at completes world
  refine ⟨_, completes, ?_, ?_, ?_, ?_, ?_, world, ?_, ?_⟩
  · rw [refuseTagData_r, offerTagData_r]; rfl
  · rw [refuseTagData_v, offerTagData_v]
  · rw [refuseTagData_h, offerTagData_h]
  · rw [refuseTagData_t, offerTagData_t]
  · rw [refuseTagData_p, offerTagData_p]
  · rw [refuseTagData_env, offerTagData_env]
  · rw [refuseTagData_trace, offerTagData_trace]
    simp [hc, takenOf]

/-- Settles O21: both kinds end the chain. -/
theorem terminalTagSetsDone : Obligations.TerminalTagSetsDone := by
  intro f s u h
  obtain h | h := h
  · obtain ⟨_, rfl⟩ := processTag_eq_next (k := .refe) h
    exact consumeTag_done_of_end (fun r => (advance_end r).1) f s
  · obtain ⟨_, rfl⟩ := processTag_eq_next (k := .endTag) h
    exact consumeTag_done_of_end (fun r => (advance_end r).2) f s

/-- Settles O26: the feed of an element, field by field. -/
theorem elementTransferAccounts : Obligations.ElementTransferAccounts := by
  intro s hq ha hm
  have fed := elem_of_mapped hq (aligned_of_lowBits ha) hm
  refine ⟨_, exec_elem_of_next fed, ?_, ?_, ?_, ?_, ?_, ?_, ?_, ?_⟩
  · exact feedElement_r _
  · exact feedElement_v _
  · exact feedElement_h _
  · exact feedElement_t _
  · exact feedElement_p _
  · exact feedElement_sameWorld (translate s.r.madr s).2
  · exact feedElement_env _
  · rw [emit_trace, feedElement_trace, translate_trace, hm]
    rfl

/-- Settles O27: what is delivered is at most the whole element, and the accounting leaves the rest. -/
theorem elementTransferConservesWords : Obligations.ElementTransferConservesWords := by
  intro s u hq hm ho h
  obtain ⟨x, hx, hu⟩ := andThen_eq_next.1 h
  cases hu
  obtain ⟨h0, _⟩ | ⟨_, _, hn, _⟩ | ⟨_, _, _, rfl⟩ := elem_eq_next hx
  · exact absurd h0 hq
  · exact absurd (hm.symm.trans hn) nofun
  · have delivered : elemDelivered s ≤ 4 * s.r.qwc.toNat := elemDelivered_le hq ho
    have left := elemCount_feedElement (s := (translate s.r.madr s).2) delivered
    exact ⟨left, fun he => feedElement_pending (s := (translate s.r.madr s).2) delivered he⟩

/-- Settles O32: the element is dealt with on the state that steps 1 to 7 leave, and the next driver step registered. -/
theorem driverStepOnElementCompletes : Obligations.DriverStepOnElementCompletes := by
  intro s ha hw hs hp
  obtain ⟨hm, _⟩ := Bool.and_eq_true_iff.1 ha
  obtain ⟨x, hx⟩ := elem_completes (s := arbitrated s) hm
  have within := within_elem hx
  have transfers := elem_transfers hx
  refine ⟨reschedule x.2, x.2.h.cycles, ?_, rfl, within.pendSync, rfl, elem_inProgress (s := arbitrated s) hp hx,
    transfers.done, transfers.regs, transfers.world, ?_, ?_⟩
  · exact (execDriverStep_arbitrated ha hw hs).trans (progress_of_inProgress hp hx)
  · rw [pulses_reschedule, transfers.pulses, pulses_arbitrated]
    simp
  · rw [pulses_reschedule, transfers.pulses, pulses_arbitrated]
    simp

/-- Settles O23: the fetch stalls in a state that differs in the draw of the stall at most. -/
theorem stalledTagFetchLeavesBlock : Obligations.StalledTagFetchLeavesBlock := by
  intro s ha h
  obtain hf | hf := fetchTag_of_stall h
  · exact ⟨_, exec_tagFetch_of_stalled ha hf, rfl, rfl, rfl, rfl, rfl, ⟨rfl, rfl, rfl, rfl, rfl⟩, rfl, rfl⟩
  · exact ⟨_, exec_tagFetch_of_stalled ha hf, rfl, rfl, rfl, rfl, rfl, ⟨rfl, rfl, rfl, rfl, rfl⟩, rfl, rfl⟩

/-- Settles O25: the two ways out of element transfer before any word is offered. -/
theorem emptyOrUnmappedElement : Obligations.EmptyOrUnmappedElement := by
  refine fun s => ⟨fun hq => exec_elem_of_next (elem_of_zero hq), fun hq ha hm => ?_⟩
  rw [exec_elem_of_next (elem_of_unmapped hq (aligned_of_lowBits ha) hm), ← hm]
  rfl

end Sys2Proof.Proofs
end

section
/-! PROOFS. Chain-advance (42_chain_tags.md R147 to R157): the operation as its moves of the registers, CALL and RET by the
stack pointer, and the return from a call. -/

namespace Sys2Proof.Machine

/-! ### The address arithmetic (R147) -/

theorem afterTag_eq (r : Regs) : afterTag r = r.tadr + 16#32 := rfl

theorem afterTagData_eq (r : Regs) : afterTagData r = r.tadr + 16#32 + 16#32 * r.qwc := by
  rw [afterTagData, addrPlus, afterTag_eq, BitVec.ofNat_mul, BitVec.ofNat_toNat, BitVec.setWidth_eq]

/-! ### The operation (45_interfaces.md R187) -/

/-- Chain-advance moves the registers by its kind, and changes the model's trace besides. -/
theorem exec_chainAdvance {k : TagKind} {s : State} {r : Regs} {ends : Bool} {fault : Option Anomaly}
    (hr : advance k s.r = (r, ends)) (hf : stackAnomaly k s.r.chcr.asp = fault) :
    exec (.chainAdvance k) s = .next { s with
      r := r
      trace := .chainAdvance k ends :: (fault.map .anomaly).toList ++ s.trace } := by
  have runs : exec (.chainAdvance k) s = .next (chainAdvance k s).2 := rfl
  subst hf
  rw [runs, chainAdvance, noteStack, hr]
  cases stackAnomaly k s.r.chcr.asp <;> rfl

/-- The registers a chain-advance leaves are those of its kind's moves. -/
theorem chainAdvance_regs_of_next {k : TagKind} {s u : State} (h : exec (.chainAdvance k) s = .next u) :
    u.r = (advance k s.r).1 := by
  cases h
  exact chainAdvance_r k s

/-! ### CALL and RET, by the stack pointer (R154, R155) -/

theorem advance_call_of_zero {r : Regs} (h : r.chcr.asp = 0#2) : advance .call r =
    ({ r with madr := r.tadr + 16#32, asr0 := r.tadr + 16#32 + 16#32 * r.qwc, tadr := r.madr,
              chcr := { r.chcr with asp := 1#2 } }, false) := by
  simp [advance, advanceCall, h, afterTag_eq, afterTagData_eq]

theorem advance_call_of_one {r : Regs} (h : r.chcr.asp = 1#2) : advance .call r =
    ({ r with madr := r.tadr + 16#32, asr1 := r.tadr + 16#32 + 16#32 * r.qwc, tadr := r.madr,
              chcr := { r.chcr with asp := 2#2 } }, false) := by
  simp [advance, advanceCall, h, afterTag_eq, afterTagData_eq]

theorem advance_call_of_full {r : Regs} (h : r.chcr.asp = 2#2 ∨ r.chcr.asp = 3#2) : advance .call r =
    ({ r with madr := r.tadr + 16#32 }, true) := by
  obtain h | h := h <;> simp [advance, advanceCall, h, afterTag_eq]

theorem advance_ret_of_two {r : Regs} (h : r.chcr.asp = 2#2) : advance .ret r =
    ({ r with madr := r.tadr + 16#32, tadr := r.asr1, asr1 := 0#32, chcr := { r.chcr with asp := 1#2 } }, false) := by
  simp [advance, advanceRet, h, afterTag_eq]

theorem advance_ret_of_one {r : Regs} (h : r.chcr.asp = 1#2) : advance .ret r =
    ({ r with madr := r.tadr + 16#32, tadr := r.asr0, asr0 := 0#32, chcr := { r.chcr with asp := 0#2 } }, false) := by
  simp [advance, advanceRet, h, afterTag_eq]

theorem advance_ret_of_empty {r : Regs} (h : r.chcr.asp = 0#2 ∨ r.chcr.asp = 3#2) : advance .ret r =
    ({ r with madr := r.tadr + 16#32 }, true) := by
  obtain h | h := h <;> simp [advance, advanceRet, h, afterTag_eq]

theorem stackAnomaly_call_of_full {asp : BitVec 2} (h : asp = 2#2 ∨ asp = 3#2) :
    stackAnomaly .call asp = some .stackOverflow := by
  obtain rfl | rfl := h <;> rfl

theorem stackAnomaly_ret_of_empty {asp : BitVec 2} (h : asp = 0#2 ∨ asp = 3#2) :
    stackAnomaly .ret asp = some .stackUnderflow := by
  obtain rfl | rfl := h <;> rfl

/-- A stack with room for an address holds none or one. -/
theorem asp_of_room {asp : BitVec 2} (h : asp.toNat < 2) : asp = 0#2 ∨ asp = 1#2 := by
  bv_omega

/-! ### The return from a call -/

/-- On the stack a CALL leaves, RET takes the address it pushed and gives back the pointer it found (R154, R155). -/
theorem advance_ret_of_call {r w : Regs} (h : r.chcr.asp.toNat < 2) (h0 : w.asr0 = (advance .call r).1.asr0)
    (h1 : w.asr1 = (advance .call r).1.asr1) (hp : w.chcr.asp = (advance .call r).1.chcr.asp) :
    (advance .ret w).1.tadr = r.tadr + 16#32 + 16#32 * r.qwc ∧ (advance .ret w).1.chcr.asp = r.chcr.asp ∧
      (advance .ret w).1.madr = w.tadr + 16#32 := by
  obtain hr | hr := asp_of_room h
  · rw [advance_call_of_zero hr] at h0 hp
    rw [advance_ret_of_one hp]
    exact ⟨h0, hr.symm, rfl⟩
  · rw [advance_call_of_one hr] at h1 hp
    rw [advance_ret_of_two hp]
    exact ⟨h1, hr.symm, rfl⟩

end Sys2Proof.Machine

/-! ### The statements on chain-advance -/

namespace Sys2Proof.Proofs

open Sys2Proof.Machine

/-- Settles O14: the moves of each kind that uses no stack, which meets no stack fault; only CNT passes over the data. -/
theorem chainAdvanceMovesPointers : Obligations.ChainAdvanceMovesPointers := by
  intro k s hc hr
  cases k with
  | call => exact absurd rfl hc
  | ret => exact absurd rfl hr
  | cnt => exact exec_chainAdvance (by rw [advance, advanceCnt, afterTagData_eq]; rfl) rfl
  | refe | next | ref | refs | endTag => exact exec_chainAdvance rfl rfl

/-- Settles O15: the registers and the stack fault at each value of the stack pointer. -/
theorem callPushesAndRetPops : Obligations.CallPushesAndRetPops := by
  refine fun s => ⟨fun h => ?_, fun h => ?_, fun h => ?_, fun h => ?_, fun h => ?_, fun h => ?_⟩
  · exact exec_chainAdvance (advance_call_of_zero h) (congrArg (stackAnomaly .call) h)
  · exact exec_chainAdvance (advance_call_of_one h) (congrArg (stackAnomaly .call) h)
  · exact exec_chainAdvance (advance_call_of_full h) (stackAnomaly_call_of_full h)
  · exact exec_chainAdvance (advance_ret_of_two h) (congrArg (stackAnomaly .ret) h)
  · exact exec_chainAdvance (advance_ret_of_one h) (congrArg (stackAnomaly .ret) h)
  · exact exec_chainAdvance (advance_ret_of_empty h) (stackAnomaly_ret_of_empty h)

/-- Settles O16: the return from a call, on the registers alone. -/
theorem returnUndoesCall : Obligations.ReturnUndoesCall := by
  intro s u w x hs hu h0 h1 hp hx
  rw [chainAdvance_regs_of_next hu] at h0 h1 hp
  rw [chainAdvance_regs_of_next hx]
  exact advance_ret_of_call hs h0 h1 hp

end Sys2Proof.Proofs
end

section
/-! PROOFS. The VU synchronizer (43_vu_synchronizer.md R158 to R166): the event's delivery, what follows the catch-up loop, how
many blocks a paced loop runs, and the statements on SYNCSTEP. -/

namespace Sys2Proof.Machine

/-! ### The delivery (45_interfaces.md R189) -/

/-- The delivery of the synchronizer's event, in the statements' words. -/
theorem deliver_sync_eq (s : State) : deliver .sync s = syncDelivered s := by
  obtain ⟨_, _, _, _, _, ⟨_, _, ps, _, _⟩, _, _, _, _, _⟩ := s
  cases ps <;> rfl

/-- An event that is not pending is delivered with nothing changed. -/
theorem deliver_of_not_pending {ev : EventId} {s : State} (h : pendingOf ev s.h = none) : deliver ev s = s := by
  unfold deliver
  rw [h]

/-- SYNCSTEP is its body on the state its event is delivered in (R158). -/
theorem exec_syncStep (s : State) : exec .syncStep s = syncStep (syncDelivered s) :=
  congrArg syncStep (deliver_sync_eq s)

/-- SYNCSTEP with its event delivered already is its body alone. -/
theorem exec_syncStep_of_not_pending {s : State} (h : s.h.pendSync = none) : exec .syncStep s = syncStep s :=
  congrArg syncStep (deliver_of_not_pending (ev := .sync) h)

/-- DRIVERSTEP with its event delivered already is its body alone. -/
theorem exec_driverStep_of_not_pending {s : State} (h : s.h.pendDriver = none) : exec .driverStep s = driverStep s :=
  congrArg driverStep (deliver_of_not_pending (ev := .driver) h)

/-! ### The release of the wait (R165) -/

/-- The state with the peer flag and the wait clear. -/
def waitReleased (s : State) : State :=
  { s with
    t := { s.t with waitPeer := false }
    v := { s.v with waitingForCoprocessor := false } }

/-- The release does nothing else where no wait is recorded, or the driver may not be re-invoked. -/
theorem releaseWait_of_kept {s : State} (h : s.v.waitingForCoprocessor = false ∨ mayReinvoke s = false) :
    releaseWait s = .next (waitReleased s) := by
  unfold releaseWait
  dsimp only
  split
  next hw =>
    have hm : mayReinvoke s = false := h.resolve_left (by simp [hw])
    exact if_neg fun hm' => Bool.false_ne_true (hm.symm.trans hm')
  next hw =>
    have hw : s.v.waitingForCoprocessor = false := by simpa using hw
    rw [waitReleased, ← hw]

/-- The release goes on with the driver where a wait is recorded and the driver may be re-invoked. -/
theorem releaseWait_of_reinvoked {s : State} (hw : s.v.waitingForCoprocessor = true) (hm : mayReinvoke s = true) :
    releaseWait s = driverStep (waitReleased s) :=
  (if_pos hw).trans (if_pos hm)

/-- The release answers by the marks alone, or as the driver does. -/
theorem releaseWait_eq (s : State) :
    releaseWait s = .next (waitReleased s) ∨ releaseWait s = driverStep (waitReleased s) := by
  by_cases h : s.v.waitingForCoprocessor = true ∧ mayReinvoke s = true
  · exact .inr (releaseWait_of_reinvoked h.1 h.2)
  · exact .inl (releaseWait_of_kept (by simpa [Classical.or_iff_not_imp_left] using h))

/-- The driver may be re-invoked exactly where no event is pending, the channel runs, and no stall sub-state is active. -/
theorem mayReinvoke_iff (s : State) : mayReinvoke s = true ↔
    s.h.pendDriver = none ∧ s.h.pendSync = none ∧ s.r.chcr.run = true ∧
      s.t.stopped = false ∧ s.t.irqStalled = false ∧ s.t.otherStall = false := by
  simp [mayReinvoke, anyStallSub, and_assoc]

/-- Any one of these keeps the driver from being re-invoked. -/
theorem mayReinvoke_eq_false {s : State} (h : s.h.pendDriver ≠ none ∨ s.r.chcr.run = false ∨ s.t.stopped = true ∨
    s.t.irqStalled = true ∨ s.t.otherStall = true) : mayReinvoke s = false := by
  rw [← Bool.not_eq_true, mayReinvoke_iff]
  rintro ⟨hd, _, hr, hs, hi, ho⟩
  simp [hd, hr, hs, hi, ho] at h

/-! ### After the loop (R163 to R165) -/

/-- With the co-processor stopped or busy the synchronizer checks again (R163). -/
theorem afterCatchUp_of_held {s : State} (h : s.p.stopped = true ∨ s.p.busy = true) :
    afterCatchUp s = .next (recheck s) :=
  if_pos (by simpa using h)

/-- With the co-processor idle the wait is released (R165). -/
theorem afterCatchUp_of_idle {s : State} (hs : s.p.stopped = false) (hb : s.p.busy = false) :
    afterCatchUp s = releaseWait s := by
  simp [afterCatchUp, hs, hb]

/-- Checking again registers the event after 128 cycles and marks the channel stalled. -/
theorem recheck_eq (s : State) : recheck s = { s with
    h := { s.h with pendSync := some ⟨128, s.h.now⟩, stallInd := true }
    trace := .setStallFlag true :: .scheduleEvent .sync 128 :: s.trace } := rfl

/-- A loop whose condition does not hold runs no block. -/
theorem catchesUpIn_zero {s : State} (h : ¬ lagsBehind s) : catchesUpIn 0 s := ⟨nofun, h⟩

/-- A co-processor that is not busy is not behind. -/
theorem not_lagsBehind_of_not_busy {s : State} (h : s.p.busy = false) : ¬ lagsBehind s :=
  fun hl => Bool.false_ne_true (h.symm.trans hl.1)

/-- SYNCSTEP whose loop ends is what follows the loop, on the state after its blocks (R160, R166). -/
theorem exec_syncStep_of_catchesUpIn {n : Nat} {s : State} (h : catchesUpIn n (syncDelivered s))
    (hn : n ≤ catchUpRounds (syncDelivered s)) : exec .syncStep s = afterCatchUp (afterBlocks n (syncDelivered s)) :=
  (exec_syncStep s).trans (syncStep_of_catchesUpIn h hn)

/-- SYNCSTEP whose loop runs no block is what follows the loop. -/
theorem exec_syncStep_of_not_lagsBehind {s : State} (h : ¬ lagsBehind (syncDelivered s)) :
    exec .syncStep s = afterCatchUp (syncDelivered s) :=
  exec_syncStep_of_catchesUpIn (catchesUpIn_zero h) (Nat.zero_le _)

/-- SYNCSTEP with the co-processor idle releases the wait (R165). -/
theorem exec_syncStep_of_idle {s : State} (hb : s.p.busy = false) (hs : s.p.stopped = false) :
    exec .syncStep s = releaseWait (syncDelivered s) :=
  (exec_syncStep_of_not_lagsBehind (not_lagsBehind_of_not_busy hb)).trans (afterCatchUp_of_idle hs hb)

/-- A synchronizer step that answers hangs in the loop, or after it checks again, clears the marks, or goes on as the driver. -/
theorem exec_syncStep_eq_next {s u : State} (h : exec .syncStep s = .next u) :
    ∃ n, u = hang (afterBlocks n (syncDelivered s)) ∨ u = recheck (afterBlocks n (syncDelivered s)) ∨
      u = waitReleased (afterBlocks n (syncDelivered s)) ∨
      driverStep (waitReleased (afterBlocks n (syncDelivered s))) = .next u := by
  rw [exec_syncStep] at h
  obtain ⟨n, _, _, he⟩ | ⟨_, he⟩ := syncStep_eq (syncDelivered s)
  · refine ⟨n, .inr ?_⟩
    obtain ⟨_, hu⟩ | ⟨_, _, hr⟩ := afterCatchUp_eq_next (he.symm.trans h)
    · exact .inl hu
    · obtain hk | hd := releaseWait_eq (afterBlocks n (syncDelivered s))
      · cases hk.symm.trans hr
        exact .inr (.inl rfl)
      · exact .inr (.inr (hd.symm.trans hr))
  · cases he.symm.trans h
    exact ⟨_, .inl rfl⟩

/-! ### What the step leaves of the channel (R162) -/

/-- `u` has of the channel's own state what `s` has: its cycle count, its registers, the runtime state but the recorded wait, and
the world outside but for a hang. -/
def KeepsChannel (s u : State) : Prop :=
  u.h.cycles = s.h.cycles ∧ u.r = s.r ∧ SameWorld { s with hung := u.hung } u ∧
    u.v = { s.v with waitingForCoprocessor := u.v.waitingForCoprocessor }

/-- What keeps the channel of the state after the blocks keeps the channel: the delivery and the blocks do. -/
theorem keepsChannel_of_afterBlocks {n : Nat} {s u : State} (h : KeepsChannel (afterBlocks n (syncDelivered s)) u) :
    KeepsChannel s u := by
  obtain ⟨hr, hv, hh, hg, hm, hp, hi, _⟩ := afterBlocks_frame n (syncDelivered s)
  obtain ⟨cycles, regs, ⟨flag, mem, platform, inputs, hung⟩, runtime⟩ := h
  rw [hv] at runtime
  exact ⟨cycles.trans (congrArg Hidden.cycles hh :), regs.trans hr,
    ⟨flag.trans hg, mem.trans hm, platform.trans hp, inputs.trans hi, hung⟩, runtime⟩

/-- No block ends a driver step. -/
theorem driverSteps_afterBlocks (n : Nat) (s : State) : driverSteps (afterBlocks n s).trace = driverSteps s.trace := by
  induction n with
  | zero => rfl
  | succ n ih => exact ih

/-- A driver step that answers is recorded as one (00_scope.md R12). -/
theorem driverSteps_of_driverStep {s u : State} (h : driverStep s = .next u) :
    driverSteps u.trace = driverSteps s.trace + 1 := by
  obtain ⟨_, _, e, calls, htr, hc, _⟩ := driverStep_endsStep h
  have ended : driverSteps (.stepEnd e :: (calls ++ s.trace)) = driverSteps (calls ++ s.trace) + 1 :=
    List.countP_cons_of_pos rfl
  rw [htr, ended, driverSteps_append, hc, Nat.zero_add]

/-! ### A paced loop (R161, D44) -/

/-- With pacing on, every block after which the loop goes round again has taken a cycle (45_interfaces.md R193, D44). -/
theorem elapsedCycles_afterBlocks {n : Nat} {s : State} (h : ∀ j ≤ n, lagsBehind (afterBlocks j s)) :
    s.p.elapsedCycles + n ≤ (afterBlocks n s).p.elapsedCycles := by
  induction n with
  | zero => exact Nat.le_refl _
  | succ n ih =>
    have earlier := ih fun j hj => h j (Nat.le_succ_of_le hj)
    have stillBusy : (executeBlock (afterBlocks n s)).p.busy = true := (h (n + 1) (Nat.le_refl _)).1
    have cost : 1 ≤ blockCost (nextBlock (afterBlocks n s)) := by
      have kept : (nextBlock (afterBlocks n s)).clearBusy = false := by simp at stillBusy; exact stillBusy.2
      simp [blockCost, kept]
    simp only [afterBlocks, executeBlock_p]
    omega

/-- With pacing on, a co-processor that is behind has not passed the clock. -/
theorem elapsedCycles_le_now {s : State} (hp : s.platform.pacing = true) (h : lagsBehind s) :
    s.p.elapsedCycles ≤ s.h.now := by
  have := h.2 hp
  omega

/-- A paced loop ends within as many blocks as the co-processor lags behind, and one more. -/
theorem catchesUp_of_pacing {s : State} (hp : s.platform.pacing = true) :
    ∃ n ≤ s.h.now - s.p.elapsedCycles + 1, catchesUpIn n s := by
  refine (catchesUp_or_lags _ s).resolve_right fun h => ?_
  obtain ⟨_, _, hh, _, _, hpl, _⟩ := afterBlocks_frame (s.h.now - s.p.elapsedCycles + 1) s
  have passed := elapsedCycles_afterBlocks h
  have behind := elapsedCycles_le_now ((congrArg Platform.pacing hpl).trans hp) (h _ (Nat.le_refl _))
  rw [hh] at behind
  omega

/-- The fuel covers the lag and one more. -/
theorem lag_succ_le_catchUpRounds (s : State) : s.h.now - s.p.elapsedCycles + 1 ≤ catchUpRounds s := by
  unfold catchUpRounds
  omega

/-- The fuel is more than the listed blocks. -/
theorem blocks_lt_catchUpRounds (s : State) : s.env.blocks.length < catchUpRounds s := by
  unfold catchUpRounds
  omega

/-- What follows the loop completes where it does not come to the driver. -/
theorem afterCatchUp_completes {s : State} (h : s.p.busy = true ∨ s.p.stopped = true ∨ s.v.waitingForCoprocessor = false ∨
    mayReinvoke s = false) : ∃ t, afterCatchUp s = .next t ∧ t.hung = s.hung := by
  by_cases held : s.p.stopped = true ∨ s.p.busy = true
  · exact ⟨_, afterCatchUp_of_held held, rfl⟩
  · obtain ⟨hs, hb⟩ : s.p.stopped = false ∧ s.p.busy = false := by simpa using held
    have kept : s.v.waitingForCoprocessor = false ∨ mayReinvoke s = false := by simpa [hs, hb] using h
    exact ⟨_, (afterCatchUp_of_idle hs hb).trans (releaseWait_of_kept kept), rfl⟩

end Sys2Proof.Machine

/-! ### The statements on the synchronizer -/

namespace Sys2Proof.Proofs

open Sys2Proof.Machine

/-- Settles O41: the loop runs no block, and the release goes on with the driver or does not. -/
theorem idleCoprocessorReleasesWait : Obligations.IdleCoprocessorReleasesWait := by
  intro s hb hs
  refine ⟨fun h => ?_, fun ⟨hw, hd, hr, hst, hi, ho⟩ => ?_⟩
  · exact (exec_syncStep_of_idle hb hs).trans (releaseWait_of_kept (h.imp_right (mayReinvoke_eq_false (s := syncDelivered s))))
  · have reinvoked : mayReinvoke (syncDelivered s) = true := (mayReinvoke_iff _).2 ⟨hd, rfl, hr, hst, hi, ho⟩
    calc exec .syncStep s
        = releaseWait (syncDelivered s) := exec_syncStep_of_idle hb hs
      _ = driverStep (waitReleased (syncDelivered s)) := releaseWait_of_reinvoked hw reinvoked
      _ = exec .driverStep (waitReleased (syncDelivered s)) :=
        (exec_driverStep_of_not_pending (s := waitReleased (syncDelivered s)) hd).symm

/-- Settles O42: what follows the loop, where it runs no block and where it runs some; a loop that does not end hangs. -/
theorem heldCoprocessorIsRechecked : Obligations.HeldCoprocessorIsRechecked := by
  intro s
  refine ⟨fun h => ?_, fun n hn hc => ⟨fun held => ?_, fun ⟨hs, hb⟩ => ?_⟩, fun t ht hh => ?_⟩
  · have noBlock : ¬ lagsBehind (syncDelivered s) := by
      obtain ⟨hb, _⟩ | ⟨_, hp, hg⟩ := h
      · exact not_lagsBehind_of_not_busy hb
      · exact fun hl => absurd (hl.2 hp) (Int.not_le.2 hg)
    have held : (syncDelivered s).p.stopped = true ∨ (syncDelivered s).p.busy = true := h.imp (·.2) (·.1)
    rw [exec_syncStep_of_not_lagsBehind noBlock, afterCatchUp_of_held held, recheck_eq]
    rfl
  · rw [exec_syncStep_of_catchesUpIn hc hn, afterCatchUp_of_held held, recheck_eq]
  · obtain ⟨_, _, hh, _⟩ := afterBlocks_frame n (syncDelivered s)
    have noMore := catchesUpIn_zero (not_lagsBehind_of_not_busy hb)
    calc exec .syncStep s
        = afterCatchUp (afterBlocks n (syncDelivered s)) := exec_syncStep_of_catchesUpIn hc hn
      _ = syncStep (afterBlocks n (syncDelivered s)) := (syncStep_of_catchesUpIn noMore (Nat.zero_le _)).symm
      _ = exec .syncStep (afterBlocks n (syncDelivered s)) :=
        (exec_syncStep_of_not_pending (congrArg Hidden.pendSync hh)).symm
  · obtain ⟨n, hn, hc, _⟩ | ⟨_, he⟩ := syncStep_eq (syncDelivered s)
    · exact ⟨n, hn, hc⟩
    · cases ht.symm.trans ((exec_syncStep s).trans he)
      exact absurd hh nofun

/-- Settles O43: each way a synchronizer step ends keeps the channel, but for the driver's, which is recorded as a driver step. -/
theorem synchronizerChargesNothing : Obligations.SynchronizerChargesNothing := by
  intro s u h hsteps
  obtain ⟨n, rfl | rfl | rfl | hd⟩ := exec_syncStep_eq_next h
  · exact keepsChannel_of_afterBlocks ⟨rfl, rfl, ⟨rfl, rfl, rfl, rfl, rfl⟩, rfl⟩
  · exact keepsChannel_of_afterBlocks ⟨rfl, rfl, ⟨rfl, rfl, rfl, rfl, rfl⟩, rfl⟩
  · exact keepsChannel_of_afterBlocks ⟨rfl, rfl, ⟨rfl, rfl, rfl, rfl, rfl⟩, rfl⟩
  · have more : driverSteps u.trace = driverSteps s.trace + 1 :=
      (driverSteps_of_driverStep hd).trans (congrArg (· + 1) (driverSteps_afterBlocks n (syncDelivered s)))
    omega

/-- Settles O44: a paced loop ends by its lag and the step with it; a loop that outlasts its fuel is not paced. -/
theorem pacedCatchUpEnds : Obligations.PacedCatchUpEnds := by
  intro s
  refine ⟨fun hp => ?_, blocks_lt_catchUpRounds (syncDelivered s), ?_⟩
  · obtain ⟨n, hn, hc⟩ := catchesUp_of_pacing (s := syncDelivered s) hp
    obtain ⟨hr, hv, hh, _, _, _, _, hhung⟩ := afterBlocks_frame n (syncDelivered s)
    refine ⟨n, hn, hc, fun h => ?_⟩
    have kept := h.imp_right (Or.imp_right (Or.imp (congrArg Runtime.waitingForCoprocessor hv).trans fun k =>
      mayReinvoke_eq_false (s := afterBlocks n (syncDelivered s)) (by rwa [hr, hh])))
    obtain ⟨t, ht, hung⟩ := afterCatchUp_completes kept
    have covered := hn.trans (lag_succ_le_catchUpRounds (syncDelivered s))
    exact ⟨t, (exec_syncStep_of_catchesUpIn hc covered).trans ht, hung.trans hhung⟩
  · obtain ⟨n, hn, hc, _⟩ | ⟨lags, hangs⟩ := syncStep_eq (syncDelivered s)
    · exact .inl ⟨n, hn, hc⟩
    · refine .inr ⟨?_, lags, (exec_syncStep s).trans hangs⟩
      rw [← Bool.not_eq_true]
      intro hp
      obtain ⟨n, hn, _, notBehind⟩ := catchesUp_of_pacing (s := syncDelivered s) hp
      exact notBehind (lags n (hn.trans (lag_succ_le_catchUpRounds _)))

end Sys2Proof.Proofs
end

section
/-! PROOFS. The Completion Driver (44_completion_driver.md): the three ways a driver step goes, what finalize does, the pulses of
the interrupt line, and the irrelevance of the run bit. -/

namespace Sys2Proof.Machine

/-! ### The three ways of a driver step (R168 to R172) -/

/-- A driver step whose event is delivered, after its steps 1, 2, 4 and the signal of step 5. -/
def signalled (s : State) : State :=
  signalIrq (notePeerPath (openStep (deliver .driver s)))

/-- Under a co-processor wait the step ends at its step 3 (R170). -/
theorem execDriverStep_of_waiting {s : State} (ha : s.r.onQuadwords = true) (hw : s.v.waitingForCoprocessor = true) :
    execDriverStep s = .next (deferToSync (openStep (deliver .driver s))) := by
  unfold execDriverStep driverStep runActions
  simp only [deliver_r, openStep_v, deliver_v, ha, hw, if_true]

/-- A run is suspended only where an interrupt is due (R172). -/
theorem irqDue_of_suspendsOnIrq {s : State} (h : suspendsOnIrq s = true) : irqDue s.v = true := by
  unfold suspendsOnIrq at h
  simp only [Bool.and_eq_true] at h
  obtain ⟨⟨due, _⟩, _⟩ := h
  exact due

/-- On an interrupt that suspends, the step ends at its step 5 (R172). -/
theorem execDriverStep_of_suspends {s : State} (ha : s.r.onQuadwords = true) (hw : s.v.waitingForCoprocessor = false)
    (hs : suspendsOnIrq s = true) : execDriverStep s = .next (suspend (signalled s)) := by
  have due := irqDue_of_suspendsOnIrq hs
  unfold execDriverStep driverStep runActions coalesce
  simp only [deliver_r, openStep_v, deliver_v, notePeerPath_v, ha, hw, due, suspends_signalIrq due, hs, if_true,
    Bool.false_eq_true, if_false]
  rfl

/-- A driver step that answers found the run's addresses on quadword boundaries (20_memory.md R87). -/
theorem onQuadwords_of_execDriverStep {s u : State} (h : execDriverStep s = .next u) : s.r.onQuadwords = true := by
  obtain ⟨ha, _⟩ := driverStep_eq_next h
  rwa [deliver_r] at ha

/-- A driver step that answers defers, suspends, or goes on to its steps 8 to 11. -/
theorem execDriverStep_eq_next {s u : State} (h : execDriverStep s = .next u) :
    (s.v.waitingForCoprocessor = true ∧ u = deferToSync (openStep (deliver .driver s))) ∨
    (s.v.waitingForCoprocessor = false ∧ suspendsOnIrq s = true ∧ u = suspend (signalled s)) ∨
    (s.v.waitingForCoprocessor = false ∧ suspendsOnIrq s = false ∧ progress (arbitrated s) = .next u) := by
  have ha := onQuadwords_of_execDriverStep h
  cases hw : s.v.waitingForCoprocessor with
  | true =>
    cases (execDriverStep_of_waiting ha hw).symm.trans h
    exact .inl ⟨rfl, rfl⟩
  | false =>
    cases hs : suspendsOnIrq s with
    | true =>
      cases (execDriverStep_of_suspends ha hw hs).symm.trans h
      exact .inr (.inl ⟨rfl, rfl, rfl⟩)
    | false => exact .inr (.inr ⟨rfl, rfl, (execDriverStep_arbitrated ha hw hs).symm.trans h⟩)

/-! ### The hand-over to the synchronizer and the suspension -/

theorem deferToSync_h (s : State) : (deferToSync s).h =
    { s.h with pendSync := some ⟨s.platform.syncDeferDelay, s.h.now⟩, stallInd := true } := rfl

theorem deferToSync_trace (s : State) : (deferToSync s).trace = .stepEnd (.rescheduleAfter s.platform.syncDeferDelay) ::
    .setStallFlag true :: .scheduleEvent .sync s.platform.syncDeferDelay :: s.trace := rfl

theorem signalled_v (s : State) : (signalled s).v = { s.v with pendingIrqCount := s.v.pendingIrqCount - 1 } := by
  simp [signalled]

theorem signalled_t (s : State) : (signalled s).t = { s.t with
    queueDepth := min s.r.qwc.toNat 8
    interruptFlag := s.t.interruptFlag || !s.t.errorSub
    irqStalled := s.t.irqStalled || !isExempt s.platform s.v.cmd } := by
  simp [signalled, signalledStatus, depthOf]

theorem signalled_h (s : State) : (signalled s).h =
    { s.h with cycles := 0, pendDriver := none, now := clockAt s.h s.h.pendDriver } := by
  simp [signalled]

theorem sameWorld_signalled (s : State) : SameWorld s (signalled s) := by
  simp [SameWorld, signalled]

/-- The logs of step 2 are no pulse. -/
theorem pulses_openStep (c : IrqCause) (s : State) : pulses c (openStep s).trace = pulses c s.trace := by
  rw [openStep_trace]
  split <;> rfl

/-- The log of step 4 is no pulse. -/
theorem pulses_notePeerPath (c : IrqCause) (s : State) : pulses c (notePeerPath s).trace = pulses c s.trace := by
  rw [notePeerPath_trace]
  split <;> rfl

/-- The signal of step 5 is one pulse, for an interrupt stall. -/
theorem pulses_signalIrq (c : IrqCause) (s : State) :
    pulses c (signalIrq s).trace = pulses c s.trace + (if c = .irqStall then 1 else 0) := by
  rw [signalIrq_trace]
  cases c <;> simp [pulses]

theorem pulses_signalled (c : IrqCause) (s : State) :
    pulses c (signalled s).trace = pulses c s.trace + (if c = .irqStall then 1 else 0) := by
  rw [signalled, pulses_signalIrq, pulses_notePeerPath, pulses_openStep, deliver_trace]

theorem pulses_deferToSync (c : IrqCause) (s : State) : pulses c (deferToSync s).trace = pulses c s.trace := rfl

theorem pulses_suspend (c : IrqCause) (s : State) : pulses c (suspend s).trace = pulses c s.trace := rfl

/-! ### Finalize (R178) -/

theorem runQueued_of_none {s : State} (h : s.v.queuedProgramPending = false) : runQueued s = s := if_neg (by simp [h])

theorem runQueued_of_pending {s : State} (h : s.v.queuedProgramPending = true) : runQueued s = executeQueuedProgram s := if_pos h

/-- With no queued program finalize only closes the run and raises the line. -/
theorem finalize_of_none {s : State} (h : s.v.queuedProgramPending = false) : finalize s = { s with
    r := { s.r with chcr := { s.r.chcr with run := false } }
    v := { s.v with
      stall := { s.v.stall with enabled := false }
      resumeOffset := { s.v.resumeOffset with enabled := false } }
    h := { s.h with cycles := 0, stallInd := false }
    t := { s.t with queueDepth := 0 }
    trace := .setStallFlag false :: .raiseLine .completion :: s.trace } := by
  rw [finalize, runQueued_of_none (s := closeRun s) h]
  rfl

/-- A queued program is executed on the closed run, before the line is raised (45_interfaces.md R195). -/
theorem finalize_of_pending {s : State} (h : s.v.queuedProgramPending = true) : finalize s = { s with
    r := { s.r with chcr := { s.r.chcr with run := false } }
    v := applyRuntimeFx (nextQueued s).fx { s.v with
      stall := { s.v.stall with enabled := false }
      resumeOffset := { s.v.resumeOffset with enabled := false }
      queuedProgramPending := false }
    h := { s.h with cycles := 0, stallInd := false }
    t := { applyStatusFx (nextQueued s).fx.status s.t with queueDepth := 0 }
    p := applyCoprocFx (nextQueued s).fx.coproc { s.p with busy := s.p.busy || (nextQueued s).startsProgram }
    env := { s.env with queued := s.env.queued.tail, draws := drawsAfter s.env.queued s.env.draws }
    trace := .setStallFlag false :: .raiseLine .completion :: .executeQueuedProgram :: s.trace } := by
  rw [finalize, runQueued_of_pending (s := closeRun s) h]
  rfl

theorem finalize_trace (s : State) : (finalize s).trace = .setStallFlag false :: .raiseLine .completion ::
    ((if s.v.queuedProgramPending then [.executeQueuedProgram] else []) ++ s.trace) := by
  cases h : s.v.queuedProgramPending with
  | false => rw [finalize_of_none h]; rfl
  | true => rw [finalize_of_pending h]; rfl

theorem sameWorld_finalize (s : State) : SameWorld s (finalize s) := by
  simp [SameWorld]

/-! ### Steps 8 to 11, one by one (R175 to R178) -/

/-- With the chain to continue, a disabled or stopped channel is held (R176). -/
theorem progress_of_held {s : State} (hp : s.v.inProgress = false) (hd : s.v.done = false)
    (hg : s.g.dmaEnable = false ∨ s.t.stopped = true) : progress s = .next (endIdle s) := by
  have held : (!s.g.dmaEnable || s.t.stopped) = true := by simpa using hg
  simp [progress, hp, hd, held]

/-- With the chain to continue and nothing in the way, the next tag is fetched (R176). -/
theorem progress_of_fetching {s e : State} (hp : s.v.inProgress = false) (hd : s.v.done = false)
    (hg : s.g.dmaEnable = true) (ht : s.t.stopped = false) (he : tagFetch s = .next e) :
    progress s = .next (reschedule e) := by
  simp [progress, hp, hd, hg, ht, he]

/-- A done run with no stall left is finalized (R178). -/
theorem progress_of_done {s : State} (hp : s.v.inProgress = false) (hd : s.v.done = true)
    (hs : s.v.stall.enabled = false) : progress s = .next (emit (.stepEnd .done) (finalize s)) := by
  simp [progress, hp, hd, hs]

/-- An element at an address off the quadword boundaries is refused (20_memory.md R87). -/
theorem elem_of_misaligned {s : State} (hq : s.r.qwc ≠ 0) (ha : aligned s.r.madr = false) :
    elem s = .refused (.misalignedElement s.r.madr) := by
  rw [elem, if_neg hq, if_pos (by simp [ha])]

/-- ELEM is element transfer and the model's note of what it reports. -/
theorem exec_elem_eq_next {s e : State} (h : exec .elem s = .next e) :
    ∃ x, elem s = .next x ∧ e = emit (.elemReport x.1) x.2 := by
  obtain ⟨x, hx, he⟩ := andThen_eq_next.1 h
  cases he
  exact ⟨x, hx, rfl⟩

/-- Steps 8 to 11 end as done only by finalizing. -/
theorem progress_ended_done {s t : State} (h : progress s = .next t) (he : t.trace.head? = some (.stepEnd .done)) :
    s.v.inProgress = false ∧ s.v.done = true := by
  obtain ⟨_, x, _, rfl⟩ | ⟨_, _, _, rfl⟩ | ⟨_, _, _, _, x, _, rfl⟩ | ⟨hp, hd, _, _⟩ | ⟨hp, hd, _, _⟩ := progress_eq_next h
  · simp at he
  · simp at he
  · simp at he
  · exact ⟨hp, hd⟩
  · exact ⟨hp, hd⟩

/-! ### The driver's phase (R180) -/

/-- The phase function asks of an interrupt what the driver's step 5 asks. -/
theorem irqDue_and_suspends (s : State) :
    (irqDue s.v && suspends { s with t := signalledStatus s.platform s.v s.t }) = suspendsOnIrq s := by
  simp only [suspends, anyStallSub, signalledStatus, suspendsOnIrq, ← Bool.or_assoc, Bool.and_assoc]
  rw [Bool.or_right_comm]

theorem driverPhase_finishing {s : State} (hw : s.v.waitingForCoprocessor = false) (hs : suspendsOnIrq s = false)
    (hp : s.v.inProgress = false) (hd : s.v.done = true) : driverPhase s = .finishing := by
  simp [driverPhase, irqDue_and_suspends, hw, hs, hp, hd]

/-! ### The pulses of steps 8 to 11 (R178, 45_interfaces.md R191) -/

theorem pulses_fetchTag (c : IrqCause) (a : Word) (s : State) : pulses c (fetchTag a s).2.trace = pulses c s.trace := by
  unfold fetchTag
  split
  · rfl
  · dsimp only
    split <;> rfl

theorem pulses_completeTag (c : IrqCause) (k : TagKind) (f : TagFields) (s : State) :
    pulses c (completeTag k f s).trace = pulses c s.trace := by
  rw [completeTag_trace]
  cases stackAnomaly k s.r.chcr.asp <;> rfl

theorem pulses_offerTagData (c : IrqCause) (k : TagKind) (f : TagFields) (s : State) :
    pulses c (offerTagData k f s).trace = pulses c s.trace := by
  rw [offerTagData_trace]
  split <;> rfl

theorem pulses_consumeTag (c : IrqCause) (k : TagKind) (f : TagFields) (s : State) :
    pulses c (consumeTag k f s).trace = pulses c s.trace := by
  cases ht : s.r.chcr.tte with
  | false => rw [consumeTag_of_no_transfer k f ht, pulses_completeTag, loadTag_trace]
  | true =>
    rw [consumeTag_of_transfer k f ht]
    split
    · rw [pulses_completeTag, pulses_offerTagData]
    · rw [refuseTagData_trace, pulses_offerTagData]

/-- A tag fetch pulses no line. -/
theorem pulses_tagFetch (c : IrqCause) {s t : State} (h : tagFetch s = .next t) : pulses c t.trace = pulses c s.trace := by
  obtain ⟨_, ⟨_, rfl⟩ | ⟨q, _, _, rfl⟩⟩ := tagFetch_eq_next h
  · exact pulses_fetchTag c _ s
  · rw [pulses_consumeTag, pulses_fetchTag]

/-- Finalize pulses the line once, for the completion. -/
theorem pulses_finalize (c : IrqCause) (s : State) :
    pulses c (finalize s).trace = pulses c s.trace + (if c = .completion then 1 else 0) := by
  rw [finalize_trace]
  cases s.v.queuedProgramPending <;> cases c <;> simp [pulses]

/-- Of steps 8 to 11 only finalize, which ends as done, pulses the line. -/
theorem pulses_progress (c : IrqCause) {s t : State} (h : progress s = .next t) : pulses c t.trace = pulses c s.trace +
    (if c = .completion ∧ t.trace.head? = some (.stepEnd .done) then 1 else 0) := by
  obtain ⟨_, x, hx, rfl⟩ | ⟨_, _, _, rfl⟩ | ⟨_, _, _, _, x, hx, rfl⟩ | ⟨_, _, _, rfl⟩ | ⟨_, _, _, rfl⟩ := progress_eq_next h
  · rw [pulses_reschedule, (elem_transfers hx).pulses]
    simp
  · simp [pulses]
  · rw [pulses_reschedule, pulses_tagFetch c hx]
    simp
  · simp [endAfter, pulses]
  · have raised : pulses c (emit (.stepEnd .done) (finalize s)).trace = pulses c (finalize s).trace := rfl
    rw [raised, pulses_finalize]
    simp

/-! ### The run bit and the trace are not asked (R169) -/

/-- `s` on an older record: its trace stands on top of `older`, and its run bit is kept or clear. -/
def onRecord (keep : Bool) (older : List TraceEvent) (s : State) : State :=
  { s with
    r := { s.r with chcr := { s.r.chcr with run := s.r.chcr.run && keep } }
    trace := s.trace ++ older }

section
variable (keep : Bool) (older : List TraceEvent) (s : State)

theorem onRecord_v : (onRecord keep older s).v = s.v := rfl
theorem onRecord_t : (onRecord keep older s).t = s.t := rfl
theorem onRecord_g : (onRecord keep older s).g = s.g := rfl
theorem onRecord_h : (onRecord keep older s).h = s.h := rfl
theorem onRecord_tadr : (onRecord keep older s).r.tadr = s.r.tadr := rfl

/-! The ports and the parts of a step: each does on an older record what it does without. -/

theorem freshDraws_onRecord : freshDraws (onRecord keep older s) = onRecord keep older (freshDraws s) := rfl

theorem fetchTag_onRecord (a : Word) : fetchTag a (onRecord keep older s) =
    ((fetchTag a s).1, onRecord keep older (fetchTag a s).2) := by
  have mapped : isMapped (onRecord keep older s).platform a = isMapped s.platform a := rfl
  have drew : (drawFetchStall (onRecord keep older s)).1 = (drawFetchStall s).1 := rfl
  unfold fetchTag
  rw [mapped]
  split
  · rfl
  · dsimp only
    rw [drew]
    split <;> rfl

theorem unpack_onRecord (ws : List Word) (n : Nat) (b : Bool) : unpack ws n b (onRecord keep older s) =
    ((unpack ws n b s).1, onRecord keep older (unpack ws n b s).2) := by
  have reply : nextUnpack (onRecord keep older s) = nextUnpack s := rfl
  unfold unpack
  dsimp only
  rw [reply]
  split <;> rfl

theorem advance_onRecord (k : TagKind) : advance k (onRecord keep older s).r =
    ((onRecord keep older { s with r := (advance k s.r).1 }).r, (advance k s.r).2) := by
  cases k with
  | call =>
    simp only [advance, advanceCall, onRecord]
    split <;> rfl
  | ret =>
    simp only [advance, advanceRet, onRecord]
    split <;> rfl
  | _ => rfl

theorem noteStack_onRecord (k : TagKind) : noteStack k (onRecord keep older s) = onRecord keep older (noteStack k s) := by
  unfold noteStack
  simp only [onRecord]
  split <;> rfl

theorem chainAdvance_onRecord (k : TagKind) : chainAdvance k (onRecord keep older s) =
    ((chainAdvance k s).1, onRecord keep older (chainAdvance k s).2) := by
  unfold chainAdvance
  rw [advance_onRecord, noteStack_onRecord]
  rfl

theorem loadTag_onRecord (k : TagKind) (f : TagFields) :
    loadTag k f (onRecord keep older s) = onRecord keep older (loadTag k f s) := rfl

theorem armResume_onRecord : armResume (onRecord keep older s) = onRecord keep older (armResume s) := by
  unfold armResume
  rw [apply_ite (onRecord keep older)]
  rfl

theorem completeTag_onRecord (k : TagKind) (f : TagFields) :
    completeTag k f (onRecord keep older s) = onRecord keep older (completeTag k f s) := by
  have advanced := chainAdvance_onRecord keep older { s with v := { s.v with resumeOffset := ⟨false, 0⟩ } } k
  unfold completeTag
  dsimp only
  rw [show { onRecord keep older s with v := { (onRecord keep older s).v with resumeOffset := ⟨false, 0⟩ } } =
    onRecord keep older { s with v := { s.v with resumeOffset := ⟨false, 0⟩ } } from rfl, advanced]
  rfl

theorem feedTagData_onRecord (k : TagKind) (f : TagFields) :
    feedTagData k f (onRecord keep older s) = onRecord keep older (feedTagData k f s) := by
  have offset : tagDataOffset (onRecord keep older s).v = tagDataOffset s.v := rfl
  unfold feedTagData
  dsimp only
  rw [offset, armResume_onRecord, unpack_onRecord, apply_ite (onRecord keep older), ← completeTag_onRecord]
  rfl

theorem consumeTag_onRecord (k : TagKind) (f : TagFields) :
    consumeTag k f (onRecord keep older s) = onRecord keep older (consumeTag k f s) := by
  have transfer : (onRecord keep older s).r.chcr.tte = s.r.chcr.tte := rfl
  unfold consumeTag
  rw [transfer, loadTag_onRecord, feedTagData_onRecord, completeTag_onRecord]
  split <;> rfl

theorem feedElement_onRecord : feedElement (onRecord keep older s) =
    ((feedElement s).1, onRecord keep older (feedElement s).2) := by
  unfold feedElement
  dsimp only
  rw [freshDraws_onRecord, unpack_onRecord]
  rfl

theorem notePeerPath_onRecord : notePeerPath (onRecord keep older s) = onRecord keep older (notePeerPath s) := by
  unfold notePeerPath
  rw [apply_ite (onRecord keep older)]
  rfl

theorem finalize_onRecord : finalize (onRecord keep older s) = onRecord keep older (finalize s) := by
  cases h : s.v.queuedProgramPending with
  | false => rw [finalize_of_none h, finalize_of_none (s := onRecord keep older s) h]; simp [onRecord]
  | true => rw [finalize_of_pending h, finalize_of_pending (s := onRecord keep older s) h]; simp [onRecord, nextQueued]

/-! The operations that may stop: they stop on an older record where they stop without, and answer what they do without. -/

theorem elem_onRecord : elem (onRecord keep older s) =
    andThen (elem s) fun x => .next (x.1, onRecord keep older x.2) := by
  by_cases hq : s.r.qwc = 0
  · rw [elem_of_zero hq, elem_of_zero (s := onRecord keep older s) hq]
    rfl
  cases ha : aligned s.r.madr with
  | false =>
    rw [elem_of_misaligned hq ha, elem_of_misaligned (s := onRecord keep older s) hq ha]
    rfl
  | true =>
    cases hm : isMapped s.platform s.r.madr with
    | false =>
      rw [elem_of_unmapped hq ha hm, elem_of_unmapped (s := onRecord keep older s) hq ha hm]
      rfl
    | true =>
      rw [elem_of_mapped hq ha hm, elem_of_mapped (s := onRecord keep older s) hq ha hm, andThen_next,
        ← feedElement_onRecord]
      rfl

theorem processTag_onRecord (k : TagKind) (f : TagFields) : processTag k f (onRecord keep older s) =
    andThen (processTag k f s) fun t => .next (onRecord keep older t) := by
  unfold processTag
  rw [consumeTag_onRecord]
  split <;> rfl

theorem onFetched_onRecord (x : FetchReply × State) : onFetched (x.1, onRecord keep older x.2) =
    andThen (onFetched x) fun t => .next (onRecord keep older t) := by
  obtain ⟨reply, t⟩ := x
  cases reply with
  | stall => rfl
  | tag q =>
    simp only [onFetched, execTag_eq]
    exact processTag_onRecord keep older t _ _

theorem tagFetch_onRecord : tagFetch (onRecord keep older s) =
    andThen (tagFetch s) fun t => .next (onRecord keep older t) := by
  unfold tagFetch
  rw [onRecord_tadr, fetchTag_onRecord, onFetched_onRecord]
  split <;> rfl

theorem progress_onRecord : progress (onRecord keep older s) =
    andThen (progress s) fun t => .next (onRecord keep older t) := by
  unfold progress
  rw [elem_onRecord, tagFetch_onRecord, finalize_onRecord, onRecord_v, onRecord_g, onRecord_t]
  cases s.v.inProgress with
  | true => cases elem s <;> rfl
  | false =>
    cases s.v.done with
    | true => cases s.v.stall.enabled <;> rfl
    | false =>
      cases (!s.g.dmaEnable || s.t.stopped) with
      | true => rfl
      | false => cases tagFetch s <;> rfl

end

/-! ### A driver step on an older record -/

/-- What a driver step logs of the run bit (R169). -/
def runBitLog (run : Bool) : List TraceEvent :=
  if run then [] else [.anomaly .runBitClear, .log .runBitClear]

section
variable (keep : Bool) (older : List TraceEvent) {s : State}

/-! A run with its bit set and nothing recorded yet, put on an older record: a bit that is not kept is logged right on top of
that record. -/

theorem opened_onRecord (hr : s.r.chcr.run = true) (ht : s.trace = []) :
    openStep (deliver .driver (onRecord keep older s)) =
      onRecord keep (runBitLog keep ++ older) (openStep (deliver .driver s)) := by
  have delivered : deliver .driver (onRecord keep older s) = onRecord keep older (deliver .driver s) := by
    unfold deliver
    rw [onRecord_h]
    split <;> rfl
  rw [delivered]
  cases keep <;> simp [openStep, onRecord, runBitLog, emit, logMessage, hr, ht]

theorem signalled_onRecord (hr : s.r.chcr.run = true) (ht : s.trace = []) :
    signalled (onRecord keep older s) = onRecord keep (runBitLog keep ++ older) (signalled s) := by
  rw [signalled, opened_onRecord keep older hr ht, notePeerPath_onRecord]
  rfl

theorem arbitrated_onRecord (hr : s.r.chcr.run = true) (ht : s.trace = []) :
    arbitrated (onRecord keep older s) = onRecord keep (runBitLog keep ++ older) (arbitrated s) := by
  cases keep <;> simp [arbitrated, onRecord, runBitLog, hr, ht]

/-- The whole driver step does on an older record what it does without, but for the log. -/
theorem execDriverStep_onRecord (ha : s.r.onQuadwords = true) (hr : s.r.chcr.run = true) (ht : s.trace = []) :
    execDriverStep (onRecord keep older s) =
      andThen (execDriverStep s) fun t => .next (onRecord keep (runBitLog keep ++ older) t) := by
  cases hw : s.v.waitingForCoprocessor with
  | true =>
    rw [execDriverStep_of_waiting ha hw, execDriverStep_of_waiting (s := onRecord keep older s) ha hw,
      opened_onRecord keep older hr ht]
    rfl
  | false =>
    cases hs : suspendsOnIrq s with
    | true =>
      rw [execDriverStep_of_suspends ha hw hs, execDriverStep_of_suspends (s := onRecord keep older s) ha hw hs,
        signalled_onRecord keep older hr ht]
      rfl
    | false =>
      rw [execDriverStep_arbitrated ha hw hs, execDriverStep_arbitrated (s := onRecord keep older s) ha hw hs,
        arbitrated_onRecord keep older hr ht, progress_onRecord]

end

/-- The state with its run bit set and nothing recorded. -/
def afresh (s : State) : State :=
  { s with
    r := { s.r with chcr := { s.r.chcr with run := true } }
    trace := [] }

/-- A state whose run bit is clear is the state with nothing recorded, on its own record with the bit not kept. -/
theorem eq_onRecord_afresh {s : State} (h : s.r.chcr.run = false) : s = onRecord false s.trace (afresh s) := by
  change s = { s with r := { s.r with chcr := { s.r.chcr with run := false } } }
  rw [← h]

end Sys2Proof.Machine

/-! ### The statements on the Completion Driver -/

namespace Sys2Proof.Proofs

open Sys2Proof.Machine

/-- Settles O29: the hand-over of step 3, on the state that steps 1 and 2 leave. -/
theorem driverDefersToSynchronizer : Obligations.DriverDefersToSynchronizer := by
  intro s ha hw
  refine ⟨_, execDriverStep_of_waiting ha hw, ?_, ?_, by simp, by simp, by simp, by simp, by simp [SameWorld], ?_⟩
  · rw [deferToSync_h, openStep_h, openStep_platform, deliver_driver_h, deliver_platform]
  · rw [deferToSync_t, openStep_t, deliver_t, deliver_r, depthOf]
  · rw [deferToSync_trace, openStep_trace, openStep_platform, deliver_platform, deliver_r, deliver_trace]

/-- Settles O30: the premises are those of `suspendsOnIrq`, and the step ends at its step 5. -/
theorem interruptStallSuspends : Obligations.InterruptStallSuspends := by
  intro s ha hw hstall hirq hsub hleft
  have suspended : suspendsOnIrq s = true := by
    have sub : (s.t.stopped || s.t.irqStalled || s.t.otherStall || !isExempt s.platform s.v.cmd) = true := by
      simpa [or_assoc] using hsub
    have left : (s.r.qwc != 0 || !s.v.done) = true := by simpa using hleft
    rw [suspendsOnIrq, sub, left]
    simp [irqDue, hstall, hirq]
  refine ⟨_, execDriverStep_of_suspends ha hw suspended, signalled_v s, ?_, ?_, by simp [signalled], by simp [signalled],
    by simp [signalled], sameWorld_signalled s, ?_, ?_⟩
  · rw [suspend_t, signalled_t]
  · rw [suspend_h, signalled_h]
  · rw [pulses_suspend, pulses_signalled, if_pos rfl]
  · rw [pulses_suspend, pulses_signalled, if_neg (by decide), Nat.add_zero]

/-- Settles O31: ELEM is element transfer and a note, which the driver step does not make. -/
theorem driverTransfersElement : Obligations.DriverTransfersElement := by
  intro s e ha hw hs hp he
  obtain ⟨x, hx, rfl⟩ := exec_elem_eq_next he
  exact (execDriverStep_arbitrated ha hw hs).trans (progress_of_inProgress hp hx)

/-- Settles O33: step 9 on the state that steps 1 to 7 leave, held or fetching. -/
theorem driverContinuesChain : Obligations.DriverContinuesChain := by
  intro s ha hw hs hp hd
  have goesOn := execDriverStep_arbitrated ha hw hs
  exact ⟨fun held => goesOn.trans (progress_of_held hp hd held),
    fun ⟨hg, ht⟩ e he => goesOn.trans (progress_of_fetching hp hd hg ht he)⟩

/-- Settles O34: step 11 on the state that steps 1 to 7 leave, whose stall they have cleared. -/
theorem driverFinalizesDoneRun : Obligations.DriverFinalizesDoneRun := by
  intro s ha hw hs hp hd
  have finalizes := (execDriverStep_arbitrated ha hw hs).trans (progress_of_done hp hd rfl)
  have pulsed (c : IrqCause) : pulses c (emit (.stepEnd .done) (finalize (arbitrated s))).trace = pulses c s.trace +
      (if irqDue s.v ∧ c = .irqStall then 1 else 0) + (if c = .completion then 1 else 0) := by
    rw [← pulses_arbitrated, ← pulses_finalize]
    rfl
  refine ⟨_, finalizes, ?_, ?_, sameWorld_finalize (arbitrated s), ?_, ?_, fun hq => ?_, fun hq => ?_⟩
  · exact finalize_r (arbitrated s)
  · exact finalize_h (arbitrated s)
  · simpa using pulsed .completion
  · simpa using pulsed .irqStall
  · rw [finalize_of_none (s := arbitrated s) hq]
    exact ⟨rfl, rfl, rfl, rfl, rfl⟩
  · rw [finalize_of_pending (s := arbitrated s) hq]
    exact ⟨rfl, rfl, rfl, rfl, rfl⟩

/-- Settles O35: the state finalize leaves, with the program's effects where one is queued. -/
theorem finalizeClosesRun : Obligations.FinalizeClosesRun := by
  refine fun s => ⟨fun hq => congrArg Host.Outcome.next (finalize_of_none hq), fun hq => ?_⟩
  refine ⟨_, congrArg Host.Outcome.next (finalize_of_pending hq), rfl, rfl, fun h => ?_, fun h => ?_, rfl, rfl, rfl, rfl,
    ⟨rfl, rfl, rfl, rfl, rfl⟩, rfl⟩
  · simp [applyRuntimeFx, h]
  · simp [applyRuntimeFx, h]

/-- Settles O37: neither the hand-over nor a suspension ends as done, and of steps 8 to 11 only finalize does. -/
theorem finalizesOnlyWhenDone : Obligations.FinalizesOnlyWhenDone := by
  intro s u h he
  obtain ⟨_, rfl⟩ | ⟨_, _, rfl⟩ | ⟨hw, hs, hprogress⟩ := execDriverStep_eq_next h
  · simp [deferToSync_trace] at he
  · simp at he
  · obtain ⟨hp, hd⟩ := progress_ended_done hprogress he
    exact ⟨hw, driverPhase_finishing hw hs hp hd, hp, hd⟩

/-- Settles O38: with and without the bit it is one step, from the state with nothing recorded, on two older records. -/
theorem clearRunBitOnlyLogs : Obligations.ClearRunBitOnlyLogs := by
  intro s u hr h
  have withBit : execDriverStep (onRecord true s.trace (afresh s)) = .next u := h
  have ha : (afresh s).r.onQuadwords = true := (onQuadwords_of_execDriverStep withBit :)
  rw [execDriverStep_onRecord true s.trace ha rfl rfl] at withBit
  obtain ⟨y, hy, hu⟩ := andThen_eq_next.1 withBit
  cases hu
  refine ⟨y.trace, rfl, ?_⟩
  calc exec .driverStep s
      = execDriverStep (onRecord false s.trace (afresh s)) := congrArg execDriverStep (eq_onRecord_afresh hr)
    _ = .next (onRecord false (runBitLog false ++ s.trace) y) := by
      rw [execDriverStep_onRecord false s.trace ha rfl rfl, hy, andThen_next]
    _ = _ := by simp [onRecord, runBitLog]

/-- Settles O40: the signal of step 5 and the line raised by finalize are the only pulses. -/
theorem driverStepPulsesLine : Obligations.DriverStepPulsesLine := by
  intro s u h
  obtain ⟨hw, rfl⟩ | ⟨hw, hs, rfl⟩ | ⟨hw, hs, hprogress⟩ := execDriverStep_eq_next h
  · rw [pulses_deferToSync, pulses_deferToSync, pulses_openStep, pulses_openStep]
    simp [deferToSync_trace, hw]
  · rw [pulses_suspend, pulses_suspend, pulses_signalled, pulses_signalled]
    simp [hw, irqDue_of_suspendsOnIrq hs]
  · rw [pulses_progress _ hprogress, pulses_progress _ hprogress, pulses_arbitrated, pulses_arbitrated]
    simp [hw]

end Sys2Proof.Proofs
end

section
/-! PROOFS. The ports (45_interfaces.md): the laws of the decoder's reply, the memory port's answers, the co-processor's replies,
and the scheduler's own delivery. -/

namespace Sys2Proof.Machine

/-! ### The effects of a reply (R186) -/

/-- Interrupt requests are only added. -/
theorem pendingIrqCount_le_applyRuntimeFx (fx : Effects) (v : Runtime) :
    v.pendingIrqCount ≤ (applyRuntimeFx fx v).pendingIrqCount := Nat.le_add_right ..

/-- The wait is only set. -/
theorem applyRuntimeFx_waiting {v : Runtime} (fx : Effects) (h : v.waitingForCoprocessor = true) :
    (applyRuntimeFx fx v).waitingForCoprocessor = true := by
  simp [applyRuntimeFx, h]

/-- A reply without a request of its own leaves the one pending as it is. -/
theorem applyRuntimeFx_queuedProgramPending {fx : Effects} (v : Runtime) (h : fx.queuedProgramPending = none) :
    (applyRuntimeFx fx v).queuedProgramPending = v.queuedProgramPending := by
  simp [applyRuntimeFx, h]

theorem applyCoprocFx_busy {fx : CoprocFx} (p : Coproc) (h : fx.busy = none) : (applyCoprocFx fx p).busy = p.busy := by
  simp [applyCoprocFx, h]

/-! ### The downstream port (R185) -/

/-- A reply that consumes takes all that was offered. -/
theorem takenOf_of_consumed {r : UnpackReply} (n : Nat) (h : r.consumed = true) : takenOf r n = n := if_pos h

/-- A feed is recorded with its reply last, or last but for the note of a refusal. -/
theorem unpack_recorded (ws : List Word) (n : Nat) (b : Bool) (s : State) :
    .unpack ws b s.v.resumeOffset (nextUnpack s).consumed (takenOf (nextUnpack s) n) ∈ (unpack ws n b s).2.trace.take 2 := by
  rw [unpack_trace]
  split <;> simp

theorem unpack_sameWorld (ws : List Word) (n : Nat) (b : Bool) (s : State) : SameWorld s (unpack ws n b s).2 := by
  simp [SameWorld]

/-! ### The memory port (R183, R184) -/

theorem exec_fetchTag_of_aligned {a : Word} (s : State) (h : aligned a = true) :
    exec (.fetchTag a) s = .next (fetchTag a s).2 := if_neg (by simp [h])

/-- A fetch draws at most whether it stalls and what unmapped bytes read as: the other ports' replies are still to come. -/
theorem fetchTag_env (a : Word) (s : State) : (fetchTag a s).2.env =
    { s.env with fetchStalls := (fetchTag a s).2.env.fetchStalls, draws := (fetchTag a s).2.env.draws } := by
  unfold fetchTag
  dsimp only
  split
  · rfl
  · split <;> rfl

/-- A stalled fetch is recorded as one, under the note of the stall. -/
theorem fetchTag_trace_of_stall {a : Word} {s : State} (h : isMapped s.platform a = false ∨ (drawFetchStall s).1 = true) :
    (fetchTag a s).2.trace = .anomaly .fetchStall :: .fetchTag a .stall :: s.trace := by
  obtain hf | hf := fetchTag_of_stall h
  · rw [hf]; rfl
  · rw [hf]; rfl

theorem fetchTag_trace_of_answer {a : Word} {s : State} (hm : isMapped s.platform a = true) (hs : (drawFetchStall s).1 = false) :
    (fetchTag a s).2.trace = .fetchTag a (.tag (readQuad (drawFetchStall s).2 a)) :: s.trace := by
  rw [fetchTag_answered hm hs]
  rfl

theorem fetchTag_sameWorld (a : Word) (s : State) : SameWorld s (fetchTag a s).2 := by
  simp [SameWorld]

/-! ### The co-processor port (R193 to R195) -/

/-- A block that leaves the co-processor busy takes at least one cycle (D44). -/
theorem one_le_blockCost {b : BlockReply} (h : b.clearBusy = false) : 1 ≤ blockCost b := by
  simp [blockCost, h]

theorem executeBlock_elapsedCycles_of_busy {s : State} (h : (executeBlock s).p.busy = true) :
    s.p.elapsedCycles + 1 ≤ (executeBlock s).p.elapsedCycles := by
  obtain ⟨_, kept⟩ : s.p.busy = true ∧ (nextBlock s).clearBusy = false := by simpa using h
  exact Nat.add_le_add_left (one_le_blockCost kept) s.p.elapsedCycles

theorem executeBlock_sameWorld (s : State) : SameWorld s (executeBlock s) := by
  simp [SameWorld]

theorem finishPass_sameWorld (s : State) : SameWorld s (finishPass s) := by
  simp [SameWorld]

theorem executeQueuedProgram_sameWorld (s : State) : SameWorld s (executeQueuedProgram s) := by
  simp [SameWorld]

/-! ### The scheduler's own delivery (R189, 60_exceptions.md R208) -/

/-- With nothing pending the machine is idle (70_reset_and_hazards.md R218). -/
theorem selfDeliver_of_none {s : State} (h : pickEvent s = none) : selfDeliver s = .next s := by
  rw [selfDeliver, h]

/-- The scheduler delivers the event picked: its handler runs once the event has come due (log 14). -/
theorem selfDeliver_of_pick {ev : EventId} {s : State} {p : Pending} (hp : pendingOf ev s.h = some p)
    (hpick : pickEvent s = some ev) :
    selfDeliver s = exec ev.instr { s with
      h := { s.h with now := max s.h.now (p.since + p.delay) + Config.freeLateness s.env.draws }
      env := { s.env with draws := s.env.draws + 1 } } := by
  rw [selfDeliver, hpick, ← comeDue_of_pending hp]

end Sys2Proof.Machine

/-! ### The statements on the ports -/

namespace Sys2Proof.Proofs

open Sys2Proof.Machine

/-- Settles O46: the reply drawn says what is consumed and taken, and its effects cannot break the laws. -/
theorem unpackKeepsItsLaws : Obligations.UnpackKeepsItsLaws := by
  intro words count isTagData s hwf
  obtain rfl : count = words.length := by simpa [Instr.wf, feedWf] using hwf
  refine ⟨(unpack words words.length isTagData s).2, (nextUnpack s).consumed, takenOf (nextUnpack s) words.length, rfl,
    takenOf_le .., takenOf_of_consumed _, unpack_recorded .., unpack_r .., unpack_h .., unpack_sameWorld .., ?_⟩
  rw [unpack_t, unpack_v]
  exact ⟨rfl, rfl, rfl, rfl, rfl, pendingIrqCount_le_applyRuntimeFx .., applyRuntimeFx_waiting _⟩

/-- Settles O48: a fetch stalls or answers the quadword at the address, whose bytes are memory's. -/
theorem memoryPortKeepsItsLaws : Obligations.MemoryPortKeepsItsLaws := by
  refine fun a s => ⟨rfl, fun ha => ?_⟩
  refine ⟨(fetchTag a s).2, exec_fetchTag_of_aligned s (aligned_of_lowBits ha), fetchTag_r a s, fetchTag_v a s, fetchTag_t a s,
    fetchTag_p a s, fetchTag_h a s, fetchTag_sameWorld a s, fetchTag_env a s, fun unmapped => ?_, fun mapped goesOn => ?_⟩
  · rw [fetchTag_trace_of_stall (.inl unmapped)]
    simp
  · exact ⟨_, fetchTag_trace_of_answer mapped goesOn, readQuad_byte _ a⟩

/-- Settles O6: which event is picked, case by case; the step is its handler. -/
theorem stepWithoutInputDelivers : Obligations.StepWithoutInputDelivers := by
  intro s hh hin
  have delivers := step_of_no_input hh hin
  refine ⟨fun hd hs => ?_, fun p hp h => ?_, fun q hq h => ?_, fun p q hp hq _ => ?_⟩
  · exact delivers.trans (selfDeliver_of_none (pickEvent_none hd hs))
  · exact ⟨_, delivers.trans (selfDeliver_of_pick (ev := .driver) hp (pickEvent_driver hp h))⟩
  · exact ⟨_, delivers.trans (selfDeliver_of_pick (ev := .sync) hq (pickEvent_sync hq h))⟩
  · obtain ⟨_, _, either⟩ := pickEvent_both hp hq
    exact ⟨_, either.imp (delivers.trans <| selfDeliver_of_pick (ev := .driver) hp ·)
      (delivers.trans <| selfDeliver_of_pick (ev := .sync) hq ·)⟩

/-- Settles O45: each port by its definition. -/
theorem schedulerAndLinePorts : Obligations.SchedulerAndLinePorts :=
  fun _ _ _ _ _ => ⟨rfl, rfl, rfl, rfl, rfl⟩

/-- Settles O47: each port's next state field by field, the block's cost by `executeBlock_elapsedCycles_of_busy`, and the
queued program's own effects, which touch only what they name. -/
theorem coprocessorPortsKeepTheirLaws : Obligations.CoprocessorPortsKeepTheirLaws := by
  intro s
  refine ⟨⟨executeBlock s, rfl, ?_⟩, ⟨finishPass s, rfl, ?_⟩, ⟨executeQueuedProgram s, rfl, ?_⟩⟩
  · exact ⟨rfl, rfl, rfl, executeBlock_sameWorld s, executeBlock_t s, rfl, executeBlock_p s,
      executeBlock_elapsedCycles_of_busy, rfl, rfl⟩
  · exact ⟨rfl, rfl, rfl, rfl, finishPass_sameWorld s, finishPass_p s, rfl, rfl⟩
  · exact ⟨rfl, rfl, executeQueuedProgram_sameWorld s, executeQueuedProgram_v s, applyRuntimeFx_queuedProgramPending _,
      executeQueuedProgram_t s, rfl, executeQueuedProgram_p s, applyCoprocFx_busy _, rfl, rfl⟩

end Sys2Proof.Proofs
end
